-- ==== Sys2Proof/Word.lean ====
section
/-! DEFINITION. The word types of the block: the byte of the link, the event word EV11, the completion word CW12
(spec/30_encoding.md R70, R85, R88). All quantities are unsigned (spec/00_scope.md R13). -/

namespace Sys2Proof

/-- A byte: the only item on the wire (R70); bit 7 is the most significant (R13). -/
abbrev Byte := BitVec 8

/-- An event word EV11, kind in bits 10:8 and operand in bits 7:0 (R85). -/
abbrev EventWord := BitVec 11

/-- A completion word CW12, state code in bits 11:9, fail in bit 8, data in bits 7:0 (R88). -/
abbrev CompletionWord := BitVec 12

end Sys2Proof
end

