-- ==== Sys2Proof/Config.lean ====
section
/-! DEFINITION. What one build of the block fixes and the spec leaves open (spec/00_scope.md R10), and the free values
(spec/93_implementation_defined.md U6). None has a body that a proof could lean on. -/

namespace Sys2Proof

/-- TIMEOUT_TICKS - 1, any natural number: the spec gives TIMEOUT_TICKS no value. -/
opaque Config.timeoutTicksPred : Nat

/-- TIMEOUT_TICKS, the threshold of the activity counter: any natural number that is at least 1 (R10).
DESIGN CHOICE (log entry 6): a constant without a value. -/
def Config.timeoutTicks : Nat := Config.timeoutTicksPred + 1

/-- T_TICK - 1 in microseconds. -/
opaque Config.tickPeriodPred : Nat

/-- T_TICK, the period of the tick source, a positive duration (R10), in microseconds. No rule of the block depends on
it (spec/70_reset_and_hazards.md R230): the rules count TICK events. DESIGN CHOICE (log entry 6): the unit, and that
the tie TIMEOUT_TICKS * T_TICK of about 500 ms is not imposed. -/
def Config.tickPeriod : Nat := Config.tickPeriodPred + 1

/-- The free byte number `n`: the byte delivered with a failed read is "any value" (spec/40_engine_ops.md R128,
spec/93_implementation_defined.md U6). DESIGN CHOICE (log entry 7). -/
opaque Config.failedReadByte : Nat → Byte

end Sys2Proof
end

