-- ==== Sys2Proof/Machine/Bytes.lean ====
section
/-! DEFINITION. The byte values of the link and the fields of a byte (spec/30_encoding.md R72, R73, R75, R78;
spec/00_scope.md R13): everything the decoder, the encoder and the meanings share about bits. -/

namespace Sys2Proof

/-- "query model", `0x16` (R73). -/
def cmdModelByte : Byte := 0x16

/-- "request transition", `0x10` (R73). -/
def cmdTransitionByte : Byte := 0x10

/-- "request instant", `0x14` (R73). -/
def cmdInstantByte : Byte := 0x14

/-- The null sentinel `0x7b` (R75). -/
def rspNullByte : Byte := 0x7b

/-- The keypad-pending sentinel `0x79` (R75). -/
def rspKeypadByte : Byte := 0x79

/-- A sentinel: one of the two reserved response bytes, compared on all 8 bits (R75, R76). -/
def isSentinel (b : Byte) : Bool := b == rspNullByte || b == rspKeypadByte

/-- The response byte with bit 7 = `up` and bits 6:0 = `scancode` (R72). -/
def responseByte (up : Bool) (scancode : BitVec 7) : Byte := BitVec.ofBool up ++ scancode

/-- `up = raw[7]` (R78). -/
def upField (raw : Byte) : Bool := raw.getLsbD 7

/-- `scancode = raw[6:0]` (R78). -/
def scancodeField (raw : Byte) : BitVec 7 := raw.extractLsb' 0 7

/-- `v[i]` of a byte: bit `i`, weight 2^i (R13). -/
def bitOf (v : Byte) (i : Nat) : Bool := v.getLsbD i

/-- `v[i] <- d`: the other seven bits keep their values. -/
def setBit (v : Byte) (i : Nat) (d : Bool) : Byte :=
  if d then v ||| (1#8 <<< i) else v &&& ~~~(1#8 <<< i)

end Sys2Proof
end

