-- ==== Sys2Proof/Syntax.lean ====
section
/-! DEFINITION. The instructions: one constructor of `Instr` for each of the 27 rows of spec/opcode_table.json
(spec/30_encoding.md R93), with the state names that two of the formats carry. -/

namespace Sys2Proof

/-- The values of `SEQ.state` (spec/10_state.md R30); their codes are `SeqState.code`. -/
inductive SeqState where
  | stopped
  | awaitModelWrite
  | awaitModelRead
  | awaitTransitionWrite
  | awaitTransitionRead
  | awaitInstantWrite
  | awaitInstantRead
  deriving DecidableEq, Repr

/-- The four encodings (spec/30_encoding.md, introduction). A response byte is classified by SEQ's state (R77), so the
format RSP8 carries the state, as the opcode table's format column does ("RSP8@AwaitModelRead"). -/
inductive Format where
  | cmd8
  | rsp8 (st : SeqState)
  | ev11
  | cw12
  deriving DecidableEq, Repr

/-- The rows of spec/opcode_table.json, in the table's order. -/
inductive Instr where
  -- CMD8, block to peer (R73)
  | queryModel
  | reqTransition
  | reqInstant
  -- RSP8, peer to block (R75, R77)
  | rspModel (d : Byte)
  | rspNull
  | rspKeypadPending
  | rspTransition (up : Bool) (scancode : BitVec 7)
  | rspInstant (up : Bool) (scancode : BitVec 7)
  -- EV11, the events (R86)
  | reset
  | start
  | tick
  | poll
  | fall (d : Bool)
  | rise
  | beginRead
  | beginWrite (b : Byte)
  -- CW12, the completion map (R89)
  | tBadStateStopped (fail : Bool) (data : Byte)
  | tBadStateCode7 (fail : Bool) (data : Byte)
  | tFail (st : SeqState) (data : Byte)
  | tModelW (data : Byte)
  | tModelR (data : Byte)
  | tTransW (data : Byte)
  | tTransRKeypad
  | tTransRNull
  | tTransRKey (data : Byte)
  | tInstW (data : Byte)
  | tInstR (data : Byte)
  deriving DecidableEq, Repr

end Sys2Proof
end

