-- ==== Sys2Proof/WellFormed.lean ====
section
/-! DEFINITION. Which instructions are rows of the table: the three side conditions that the field widths do not
already say. -/

namespace Sys2Proof

/-- RSP_TRANSITION and T_TRANS_R_KEY stand for the 254 bytes that are no sentinel (spec/30_encoding.md R75,
spec/41_sequencer.md R148); T_FAIL for the state codes 001 to 110 (R151, R89). Every other row takes every value of
its fields. -/
def Instr.wellFormed : Instr → Bool
  | .rspTransition up scancode => !isSentinel (responseByte up scancode)
  | .tTransRKey data => !isSentinel data
  | .tFail st _ => st != .stopped
  | .queryModel | .reqTransition | .reqInstant => true
  | .rspModel _ | .rspNull | .rspKeypadPending | .rspInstant _ _ => true
  | .reset | .start | .tick | .poll | .fall _ | .rise | .beginRead | .beginWrite _ => true
  | .tBadStateStopped _ _ | .tBadStateCode7 _ _ => true
  | .tModelW _ | .tModelR _ | .tTransW _ | .tTransRKeypad | .tTransRNull | .tInstW _ | .tInstR _ => true

end Sys2Proof
end

