-- ==== Sys2Proof/Decode.lean ====
section
/-! DEFINITION. The decoder, total on every word of every format and rejecting by name, and after it the encoder
(spec/30_encoding.md R70 to R89). -/

namespace Sys2Proof

/-- Why a word is no instruction. -/
inductive DecodeError where
  /-- An event word whose operand is not as R86 requires (R87: `refuse`). -/
  | reservedEventWord
  /-- A byte that is none of the three commands (R74: no meaning in the source). -/
  | noSuchCommand
  /-- A response byte while SEQ awaits no read: R75 and R77 classify a byte in the three Await...Read states only. -/
  | noReadAwaited
  /-- The word has bits above its format's width (R70, R85, R88). -/
  | tooWide
  deriving DecidableEq, Repr

/-- The 3-bit code of `SEQ.state` (spec/10_state.md R30). -/
def SeqState.code : SeqState → BitVec 3
  | .stopped => 0
  | .awaitModelWrite => 1
  | .awaitModelRead => 2
  | .awaitTransitionWrite => 3
  | .awaitTransitionRead => 4
  | .awaitInstantWrite => 5
  | .awaitInstantRead => 6

/-- The state of a code; code 7 is unused (R30). -/
def SeqState.ofCode (c : BitVec 3) : Option SeqState :=
  match c.toNat with
  | 0 => some .stopped
  | 1 => some .awaitModelWrite
  | 2 => some .awaitModelRead
  | 3 => some .awaitTransitionWrite
  | 4 => some .awaitTransitionRead
  | 5 => some .awaitInstantWrite
  | 6 => some .awaitInstantRead
  | _ => none

/-- The width of a format's words (R71, R72, R85, R88). -/
def Format.width : Format → Nat
  | .cmd8 => 8
  | .rsp8 _ => 8
  | .ev11 => 11
  | .cw12 => 12

/-- CMD8: the three command bytes (R71, R73); the 253 others have no meaning (R74). -/
def decodeCMD8 (b : Byte) : Except DecodeError Instr :=
  if b = cmdModelByte then .ok .queryModel
  else if b = cmdTransitionByte then .ok .reqTransition
  else if b = cmdInstantByte then .ok .reqInstant
  else .error .noSuchCommand

/-- RSP8: the class of a response byte in a state of SEQ (R75, R77). The sentinels are tested in AwaitTransitionRead
only, before the general row. -/
def decodeRSP8 (st : SeqState) (b : Byte) : Except DecodeError Instr :=
  match st with
  | .awaitModelRead => .ok (.rspModel b)
  | .awaitTransitionRead =>
    if b = rspNullByte then .ok .rspNull
    else if b = rspKeypadByte then .ok .rspKeypadPending
    else .ok (.rspTransition (upField b) (scancodeField b))
  | .awaitInstantRead => .ok (.rspInstant (upField b) (scancodeField b))
  | .stopped | .awaitModelWrite | .awaitTransitionWrite | .awaitInstantWrite => .error .noReadAwaited

/-- `i` if the operand field is zero, as kinds 0, 1, 2, 3, 5, 6 require (R86, R87). -/
def eventWithoutOperand (operand : Byte) (i : Instr) : Except DecodeError Instr :=
  if operand = 0 then .ok i else .error .reservedEventWord

/-- EV11: the event of a word `{kind[2:0], operand[7:0]}` (R85, R86); reserved words are refused (R87). -/
def decodeEV11 (w : EventWord) : Except DecodeError Instr :=
  let operand : Byte := w.extractLsb' 0 8
  match (w.extractLsb' 8 3).toNat with
  | 0 => eventWithoutOperand operand .reset
  | 1 => eventWithoutOperand operand .start
  | 2 => eventWithoutOperand operand .tick
  | 3 => eventWithoutOperand operand .poll
  | 4 => if operand &&& 0xfe = 0 then .ok (.fall (bitOf operand 0)) else .error .reservedEventWord
  | 5 => eventWithoutOperand operand .rise
  | 6 => eventWithoutOperand operand .beginRead
  | _ => .ok (.beginWrite operand)

/-- The row of a successful completion in a state of SEQ: rows 3 to 10 of R89, the sentinels before the general row. -/
def successRow (st : SeqState) (data : Byte) : Instr :=
  match st with
  | .stopped => .tBadStateStopped false data
  | .awaitModelWrite => .tModelW data
  | .awaitModelRead => .tModelR data
  | .awaitTransitionWrite => .tTransW data
  | .awaitTransitionRead =>
    if data = rspKeypadByte then .tTransRKeypad
    else if data = rspNullByte then .tTransRNull
    else .tTransRKey data
  | .awaitInstantWrite => .tInstW data
  | .awaitInstantRead => .tInstR data

/-- The completion map (R89) on the three fields of a completion word: bad state first, then failure, then the state. -/
def completionRow (st : Option SeqState) (fail : Bool) (data : Byte) : Instr :=
  match st with
  | none => .tBadStateCode7 fail data
  | some q =>
    if q = .stopped then .tBadStateStopped fail data
    else if fail then .tFail q data
    else successRow q data

/-- CW12: the row of a completion word (R88, R89); total over the 4096 words. -/
def decodeCW12 (w : CompletionWord) : Instr :=
  completionRow (SeqState.ofCode (w.extractLsb' 9 3)) (w.getLsbD 8) (w.extractLsb' 0 8)

/-- The completion word `{state[2:0], fail, data[7:0]}` (R88). -/
def completionWord (st : BitVec 3) (fail : Bool) (data : Byte) : CompletionWord :=
  st ++ BitVec.ofBool fail ++ data

/-- The decoder: a word of a format, in the low bits, to its instruction or a named refusal. -/
def decode (f : Format) (w : BitVec 12) : Except DecodeError Instr :=
  if w.toNat < 2 ^ f.width then
    match f with
    | .cmd8 => decodeCMD8 (w.setWidth 8)
    | .rsp8 st => decodeRSP8 st (w.setWidth 8)
    | .ev11 => decodeEV11 (w.setWidth 11)
    | .cw12 => .ok (decodeCW12 w)
  else .error .tooWide

/-- An encoded instruction: its format and its word, zero above the format's width. -/
structure Encoded where
  format : Format
  word : BitVec 12
  deriving DecidableEq, Repr

/-- A command byte as a CMD8 word. -/
def encodeCMD8 (b : Byte) : Encoded := { format := .cmd8, word := b.setWidth 12 }

/-- A response byte as an RSP8 word in the state that awaits it. -/
def encodeRSP8 (st : SeqState) (b : Byte) : Encoded := { format := .rsp8 st, word := b.setWidth 12 }

/-- The event word of a kind and an operand (R85). -/
def eventWord (kind : BitVec 3) (operand : Byte) : EventWord := kind ++ operand

/-- An event word as an EV11 word. -/
def encodeEV11 (kind : BitVec 3) (operand : Byte) : Encoded :=
  { format := .ev11, word := (eventWord kind operand).setWidth 12 }

/-- A completion word as a CW12 word. -/
def encodeCW12 (st : BitVec 3) (fail : Bool) (data : Byte) : Encoded :=
  { format := .cw12, word := completionWord st fail data }

/-- The encoder, from the tables of R73, R75, R86 and R89. -/
def encode : Instr → Encoded
  | .queryModel => encodeCMD8 0x16
  | .reqTransition => encodeCMD8 0x10
  | .reqInstant => encodeCMD8 0x14
  | .rspModel d => encodeRSP8 .awaitModelRead d
  | .rspNull => encodeRSP8 .awaitTransitionRead 0x7b
  | .rspKeypadPending => encodeRSP8 .awaitTransitionRead 0x79
  | .rspTransition up scancode => encodeRSP8 .awaitTransitionRead (responseByte up scancode)
  | .rspInstant up scancode => encodeRSP8 .awaitInstantRead (responseByte up scancode)
  | .reset => encodeEV11 0 0
  | .start => encodeEV11 1 0
  | .tick => encodeEV11 2 0
  | .poll => encodeEV11 3 0
  | .fall d => encodeEV11 4 ((BitVec.ofBool d).setWidth 8)
  | .rise => encodeEV11 5 0
  | .beginRead => encodeEV11 6 0
  | .beginWrite b => encodeEV11 7 b
  | .tBadStateStopped fail data => encodeCW12 0 fail data
  | .tBadStateCode7 fail data => encodeCW12 7 fail data
  | .tFail st data => encodeCW12 st.code true data
  | .tModelW data => encodeCW12 1 false data
  | .tModelR data => encodeCW12 2 false data
  | .tTransW data => encodeCW12 3 false data
  | .tTransRKeypad => encodeCW12 4 false 0x79
  | .tTransRNull => encodeCW12 4 false 0x7b
  | .tTransRKey data => encodeCW12 4 false data
  | .tInstW data => encodeCW12 5 false data
  | .tInstR data => encodeCW12 6 false data

/-- The format a bare table word of `nbits` bits is read as. The opcode table's formats overlap as bare words (R93 lets
a decoder choose by priority only among rows that share a format), so a bare word needs a rule. DESIGN CHOICE (log
entry 4): 8 bits are a command where they are one of the three commands, and otherwise a response to a transition
read; 16 bits are an event where they are one that is not reserved, and otherwise a completion word. A width of 11 or
12 names its format. -/
def tableFormat (nbits w : Nat) : Option Format :=
  if nbits = 8 then
    some (if (decodeCMD8 (BitVec.ofNat 8 w)).isOk then .cmd8 else .rsp8 .awaitTransitionRead)
  else if nbits = 11 then some .ev11
  else if nbits = 12 then some .cw12
  else if nbits = 16 then
    some (if w < 2 ^ 11 && (decodeEV11 (BitVec.ofNat 11 w)).isOk then .ev11 else .cw12)
  else none

/-- The instruction the decoder reads from a bare word of the opcode table: the word in the format `tableFormat` gives
it, and none where a bit above the format's width is set or the decoder refuses. -/
def decodeTableWord (nbits w : Nat) : Option Instr :=
  match tableFormat nbits w with
  | none => none
  | some f => if w < 2 ^ f.width then (decode f (BitVec.ofNat 12 w)).toOption else none

end Sys2Proof
end

