-- ==== Sys2Proof/Machine/State.lean ====
section
/-! DEFINITION. The state of the block as plain data (spec/10_state.md R20 to R40), the inputs and outputs the model
keeps beside it, the reasons a step can stop, and the state after reset. -/

namespace Sys2Proof.Machine

/-- `ENG.dir`, and the kind of a completion: read or write (R21). -/
inductive Dir where
  | read
  | write
  deriving DecidableEq, Repr

/-- `ENG.status` (R24). -/
inductive Status where
  | idle
  | inProgress
  | completedOk
  | completedFailed
  deriving DecidableEq, Repr

/-- `ENG.pending`: the tag of the pending completion (R26). -/
inductive Pending where
  | none
  | pendingRead
  | pendingWrite
  deriving DecidableEq, Repr

/-- `ENG.edge_sense`: which clock edge the edge interrupt is set to (R27). -/
inductive EdgeSense where
  | off
  | falling
  | rising
  deriving DecidableEq, Repr

/-- `ENG.data_drive`: the block's drive of the open-drain data line (R29). -/
inductive Drive where
  | released
  | low
  deriving DecidableEq, Repr

/-- The one Transfer State of the byte transfer engine and the three fields recovered from its actions (R20). -/
structure Eng where
  /-- `ENG.dir` (R21) -/
  dir : Dir
  /-- `ENG.buf` (R22) -/
  buf : Byte
  /-- `ENG.nbits`, a count 0 to 8 (R23; log entry 12) -/
  nbits : Nat
  /-- `ENG.status` (R24) -/
  status : Status
  /-- `ENG.idle_ticks`, 0 to TIMEOUT_TICKS + 1 (R25; log entry 12) -/
  idleTicks : Nat
  /-- `ENG.pending` (R26) -/
  pending : Pending
  /-- `ENG.edge_sense` (R27) -/
  edgeSense : EdgeSense
  /-- `ENG.rearm_wait` (R28) -/
  rearmWait : Bool
  /-- `ENG.data_drive` (R29), also the block's one level output (R33 (a)) -/
  dataDrive : Drive
  deriving DecidableEq, Repr

/-- The protocol sequencer's state. -/
structure Seq where
  /-- `SEQ.state` (R30) -/
  state : SeqState
  /-- `SEQ.kp_pending` (R31) -/
  kpPending : Bool
  deriving DecidableEq, Repr

/-- The three compositions the spec names (spec/30_encoding.md R87). DESIGN CHOICE (log entry 1). -/
inductive Configuration where
  | top
  | engAlone
  | seqAlone
  deriving DecidableEq, Repr

/-- One input the environment presents: a word of one of the four encodings, or an input of SEQ used alone that is no
word: the completion callback `Done(kind, result, data)`, being started, being reset. DESIGN CHOICE (log entry 2). -/
inductive PortItem where
  /-- an event word on the event port (R32, R85) -/
  | event (w : EventWord)
  /-- a command byte that the client of ENG alone hands to it (R74; log entry 9) -/
  | command (b : Byte)
  /-- a response byte for SEQ alone, classified by its state (R77; log entry 10) -/
  | response (b : Byte)
  /-- a completion word for SEQ alone (R88; log entry 11) -/
  | completion (w : CompletionWord)
  /-- `Done(kind, result, data)` for SEQ alone (R142) -/
  | done (kind : Dir) (result data : Byte)
  /-- START applied to SEQ alone (R140; log entry 8): no event word, since SEQ alone takes none (R87) -/
  | startSeq
  /-- RESET applied to SEQ alone (R210; log entry 8): no event word -/
  | resetSeq
  deriving DecidableEq, Repr

/-- One `emit` of spec/00_scope.md R16. -/
inductive Emit where
  /-- `Done(read, result, data)` (R126) -/
  | doneRead (result data : Byte)
  /-- `Done(write, result)`: no byte (R126, R128) -/
  | doneWrite (result : Byte)
  /-- `Key(raw, keypad)` (R152) -/
  | key (raw : Byte) (keypad : Bool)
  /-- `Cmd(BEGIN_READ)` -/
  | cmdRead
  /-- `Cmd(BEGIN_WRITE, b)` -/
  | cmdWrite (b : Byte)
  deriving DecidableEq, Repr

/-- The whole state: the spec's eleven fields in `eng` and `seq` (R40), and the model's own four. -/
structure State where
  /-- ENG -/
  eng : Eng
  /-- SEQ -/
  seq : Seq
  /-- model's own: which composition runs; no step changes it (log entry 1) -/
  conf : Configuration
  /-- model's own: the inputs presented and not yet taken, oldest first (log entry 2) -/
  port : List PortItem
  /-- model's own: every emit so far, oldest first (log entry 3) -/
  emits : List Emit
  /-- model's own: the number of the next free byte (log entry 7) -/
  freeIdx : Nat
  deriving DecidableEq, Repr

/-- The machine never stops with a fault: the block's one failure, TransferTimeout, is a next state
(spec/60_exceptions.md R181), and every stop of the spec is a `refuse` (log entry 13). -/
inductive Fault where
  deriving DecidableEq, Repr

/-- Why a step answers no next state. Each is a `refuse` of the spec (spec/00_scope.md R16: a model must not pick a next
state), so each is safe. -/
inductive Refusal where
  /-- an instruction without a meaning yet; raised by `exec`'s arms only; safe -/
  | notModelled (mnemonic : String)
  /-- raised by `fetch`: the word decodes to no instruction (R74, R77, R87); safe -/
  | undecodable (e : DecodeError)
  /-- raised by `fetch`: this configuration's port does not accept the input (R87); safe -/
  | notAccepted
  /-- raised by BEGIN_READ and BEGIN_WRITE when `ENG.status` is not idle (R221); safe -/
  | transferNotIdle
  /-- raised by START when `SEQ.state` is not Stopped (R141); safe -/
  | alreadyStarted
  /-- raised by T_BAD_STATE: a completion for a stopped SEQ or state code 7 (R161); safe -/
  | badState
  /-- raised by a completion of the wrong kind for SEQ's state (R142); safe -/
  | kindDisagrees
  /-- raised by RSP_* and T_* when SEQ is not in the row's state, or the byte is not of the row: the rule's precondition
  does not hold (R143 to R151, R156 to R160); safe -/
  | preconditionFails
  /-- raised by the command rows when SEQ is in no state from which it issues that command (R153 to R155); safe -/
  | commandOutOfTurn
  deriving DecidableEq, Repr

/-- The outcome of one step. -/
abbrev Result := Host.Outcome State Fault Refusal

/-- ENG after RESET (R38). -/
def Eng.reset : Eng :=
  { dir := .read, buf := 0x00, nbits := 0, status := .idle, idleTicks := 0, pending := .none, edgeSense := .off,
    rearmWait := false, dataDrive := .released }

/-- SEQ after RESET (R38). -/
def Seq.reset : Seq := { state := .stopped, kpPending := false }

/-- The machine right after reset: the eleven fields as R38 says; composition TOP, nothing presented, nothing emitted
(DESIGN CHOICE, log entries 1, 2, 3, 7). -/
def State.reset : State :=
  { eng := Eng.reset, seq := Seq.reset, conf := .top, port := [], emits := [], freeIdx := 0 }

end Sys2Proof.Machine
end

