-- ==== Sys2Proof/Machine/Flags.lean ====
section
/-! DEFINITION. The tests the rules make: which edges are sensed, when a transfer has timed out, the result code and
the fail bit, and when SEQ may issue a command. -/

namespace Sys2Proof.Machine

/-- FALL is sensed only while a transfer is in progress and falling edges are sensed (spec/40_engine_ops.md R112). -/
def fallSensed (e : Eng) : Bool := e.status == .inProgress && e.edgeSense == .falling

/-- RISE is sensed only while a transfer is in progress and rising edges are sensed (R112). -/
def riseSensed (e : Eng) : Bool := e.status == .inProgress && e.edgeSense == .rising

/-- The counter exceeds the threshold `n`, strictly (R118). -/
def timedOut (n : Nat) (e : Eng) : Bool := n < e.idleTicks

/-- The transfer has finished and waits for POLL (R126). -/
def completed (e : Eng) : Bool := e.status == .completedOk || e.status == .completedFailed

/-- FAIL_CODE, the non-zero result code ENG reports (spec/30_encoding.md R79). -/
def failCode : Byte := 1

/-- The result code of a finished transfer: 0 for ok, FAIL_CODE for failed (R79, R126). -/
def resultCode (e : Eng) : Byte := if e.status = .completedOk then 0 else failCode

/-- The bit `fail` of a completion: any non-zero result is a failure (R79, R88). -/
def failBit (result : Byte) : Bool := result != 0

/-- The kind of completion a state of SEQ waits for: an Await...Write state a write, an Await...Read state a read
(spec/10_state.md R30). -/
def awaitedKind : SeqState → Option Dir
  | .stopped => none
  | .awaitModelWrite | .awaitTransitionWrite | .awaitInstantWrite => some .write
  | .awaitModelRead | .awaitTransitionRead | .awaitInstantRead => some .read

/-- A completion of this kind disagrees with a started SEQ's state (spec/41_sequencer.md R142). A stopped SEQ awaits
none; its completions are T_BAD_STATE (R161). -/
def kindDisagrees (st : SeqState) (kind : Dir) : Bool := st != .stopped && awaitedKind st != some kind

end Sys2Proof.Machine
end

