-- ==== Sys2Proof/Machine/Operands.lean ====
section
/-! DEFINITION. The operands of the rules: the index and level of the next bit, the level of the data line, the three
commands, and the codes of the state fields. -/

namespace Sys2Proof.Machine

/-- The index of the next bit: `7 - ENG.nbits`, most significant first (spec/40_engine_ops.md R110, R133). On a sensed
falling edge of a state of R35 `nbits` is at most 7. DESIGN CHOICE (log entry 12): 0 beyond that range. -/
def bitIndex (e : Eng) : Nat := 7 - e.nbits

/-- The drive that sends a bit: 1 is the line released, 0 the line pulled low (spec/20_memory.md R59, R110). -/
def driveOfBit (bit : Bool) : Drive := if bit then .released else .low

/-- `LineLevel()`: the wired AND of the block's drive and the peer's pull (R58). The environment that raises FALL d
computes d so. -/
def lineLevel (drive : Drive) (peerPulls : Bool) : Bool := drive == .released && !peerPulls

/-- One of the three commands SEQ issues (spec/30_encoding.md R73). -/
inductive Command where
  | queryModel
  | reqTransition
  | reqInstant
  deriving DecidableEq, Repr

/-- The byte of a command (R73). -/
def commandByte : Command → Byte
  | .queryModel => cmdModelByte
  | .reqTransition => cmdTransitionByte
  | .reqInstant => cmdInstantByte

/-- SEQ's state while the command is in flight (spec/41_sequencer.md R153, R154, R155). -/
def stateInFlight : Command → SeqState
  | .queryModel => .awaitModelWrite
  | .reqTransition => .awaitTransitionWrite
  | .reqInstant => .awaitInstantWrite

/-- The states of SEQ from which a command is issued: the model query by START and by every restart (R153), the
transition request after a model read, a transition read or an instant read (R154), the instant request after the
sentinel `0x79` of a transition read only (R155). -/
def issuedFrom (c : Command) (st : SeqState) : Bool :=
  match c with
  | .queryModel => true
  | .reqTransition => st == .awaitModelRead || st == .awaitTransitionRead || st == .awaitInstantRead
  | .reqInstant => st == .awaitTransitionRead

/-- Code of `ENG.dir` (spec/10_state.md R21). -/
def dirCode : Dir → BitVec 1
  | .read => 0
  | .write => 1

/-- Code of `ENG.status` (R24). -/
def statusCode : Status → BitVec 2
  | .idle => 0
  | .inProgress => 1
  | .completedOk => 2
  | .completedFailed => 3

/-- Code of `ENG.pending`; code 3 is never reached (R26). -/
def pendingCode : Pending → BitVec 2
  | .none => 0
  | .pendingRead => 1
  | .pendingWrite => 2

/-- Code of `ENG.edge_sense`; code 3 is never reached (R27). -/
def edgeSenseCode : EdgeSense → BitVec 2
  | .off => 0
  | .falling => 1
  | .rising => 2

/-- Code of `ENG.data_drive`: an active-high "pull low" enable (R29). -/
def driveCode : Drive → BitVec 1
  | .released => 0
  | .low => 1

/-- `ENG.nbits` as its 4-bit field (R23). -/
def nbitsCode (n : Nat) : BitVec 4 := BitVec.ofNat 4 n

end Sys2Proof.Machine
end

