-- ==== Sys2Proof/Machine/Ops.lean ====
section
/-! DEFINITION. The shared operations the meanings are written over: ENG's own transitions, raising TransferTimeout,
starting a transfer, issuing a command, handing on a key, and delivering a completion. -/

namespace Sys2Proof.Machine

/-- The state with another ENG. -/
def State.setEng (s : State) (e : Eng) : State := { s with eng := e }

/-- The state with another `SEQ.state`: the block's analogue of a jump (spec/00_scope.md R14). -/
def State.goto (s : State) (st : SeqState) : State := { s with seq := { s.seq with state := st } }

/-- The state with another `SEQ.kp_pending`. -/
def State.setKp (s : State) (kp : Bool) : State := { s with seq := { s.seq with kpPending := kp } }

/-- `emit` (R16): the emit is recorded last. -/
def State.emit (s : State) (x : Emit) : State := { s with emits := s.emits ++ [x] }

/-- The state after a free byte has been taken (log entry 7). -/
def State.takeFree (s : State) : State := { s with freeIdx := s.freeIdx + 1 }

/-- Run `f` on the next state; a stop stays a stop. -/
def andThen (r : Result) (f : State → Result) : Result :=
  match r with
  | .next s => f s
  | .fault x => .fault x
  | .refused x => .refused x

/-! ### ENG -/

/-- ENG armed for a read: every field, as BEGIN_READ writes it (spec/40_engine_ops.md R102). -/
def engArmedRead : Eng :=
  { dir := .read, buf := 0x00, nbits := 0, idleTicks := 0, pending := .pendingRead, edgeSense := .off,
    rearmWait := true, dataDrive := .released, status := .inProgress }

/-- ENG armed for a write of `b`: every field, as BEGIN_WRITE writes it (R106). -/
def engArmedWrite (b : Byte) : Eng :=
  { dir := .write, buf := b, nbits := 0, idleTicks := 0, pending := .pendingWrite, dataDrive := .low,
    edgeSense := .falling, rearmWait := false, status := .inProgress }

/-- One bit of the transfer: a read samples the line into the buffer's next bit, a write drives it (R110). -/
def transferBit (d : Bool) (e : Eng) : Eng :=
  match e.dir with
  | .read => { e with buf := setBit e.buf (bitIndex e) d }
  | .write => { e with dataDrive := driveOfBit (bitOf e.buf (bitIndex e)) }

/-- The bit count advances; after the eighth bit the edge sense switches to rising (R110). -/
def countBit (e : Eng) : Eng :=
  let e' := { e with nbits := e.nbits + 1 }
  if e'.nbits = 8 then { e' with edgeSense := .rising } else e'

/-- The edge handler on a falling edge (R110); an edge that is not sensed changes nothing and is not remembered
(R112). -/
def engFall (d : Bool) (e : Eng) : Eng := if fallSensed e then countBit (transferBit d e) else e

/-- The edge handler on a rising edge (R113, R112). -/
def engRise (e : Eng) : Eng :=
  if riseSensed e then { e with dataDrive := .released, edgeSense := .off, status := .completedOk } else e

/-- `raise TransferTimeout`, the block's one exception (R122): a forced completion. Nothing is saved and control goes
nowhere (spec/60_exceptions.md R181, R194); POLL reports it, and there is no return from it (R195). -/
def raiseTransferTimeout (e : Eng) : Eng :=
  { e with status := .completedFailed, edgeSense := .off, rearmWait := false, dataDrive := .released }

/-- The re-arm of a waiting read (R114). -/
def rearm (e : Eng) : Eng := if e.rearmWait then { e with rearmWait := false, edgeSense := .falling } else e

/-- The activity counter advances by one (R118). -/
def countTick (e : Eng) : Eng := { e with idleTicks := e.idleTicks + 1 }

/-- The tick handler with threshold `n`: re-arm, count, then test (R114, R118); outside a transfer nothing (R123). -/
def engTick (n : Nat) (e : Eng) : Eng :=
  if e.status = .inProgress then
    let e' := countTick (rearm e)
    if timedOut n e' then raiseTransferTimeout e' else e'
  else e

/-- ENG after POLL has taken a completion: idle, nothing pending, the other fields as they are (R126). -/
def engTaken (e : Eng) : Eng := { e with status := .idle, pending := .none }

/-- Start the transfer that arms ENG as `armed`; refused unless ENG is idle (R101, spec/70_reset_and_hazards.md R221). -/
def beginTransfer (armed : Eng) (s : State) : Result :=
  if s.eng.status = .idle then .next (s.setEng armed) else .refused .transferNotIdle

/-! ### SEQ's outputs -/

/-- In TOP what SEQ emits as a `Cmd` runs on ENG in the same step (spec/00_scope.md R16); SEQ used alone only emits it
(spec/10_state.md R33 (d)). -/
def toEngine (armed : Eng) (s : State) : Result :=
  match s.conf with
  | .top => beginTransfer armed s
  | .engAlone | .seqAlone => .next s

/-- `emit Cmd(BEGIN_READ)`. -/
def cmdBeginRead (s : State) : Result := toEngine engArmedRead (s.emit .cmdRead)

/-- `emit Cmd(BEGIN_WRITE, b)`. -/
def cmdBeginWrite (b : Byte) (s : State) : Result := toEngine (engArmedWrite b) (s.emit (.cmdWrite b))

/-- SEQ goes on to await a reply: `SEQ.state <- st; emit Cmd(BEGIN_READ)` (spec/41_sequencer.md R143, R145, R149). -/
def awaitReply (st : SeqState) (s : State) : Result := cmdBeginRead (s.goto st)

/-- SEQ issues a command: `SEQ.state <- S; emit Cmd(BEGIN_WRITE, b)` (R141, R144, R146 to R148, R150, R151). -/
def issue (c : Command) (s : State) : Result := cmdBeginWrite (commandByte c) (s.goto (stateInFlight c))

/-- `emit Key(data, keypad = SEQ.kp_pending)`: the raw byte unchanged and the keypad flag (R152). -/
def handKey (data : Byte) (s : State) : State := s.emit (.key data s.seq.kpPending)

/-! ### SEQ's reactions, shared by a completion row and by the response class it handles -/

/-- The model byte has been read: it is discarded (R144, R156). -/
def onModelByte (s : State) : Result := issue .reqTransition s

/-- The null sentinel has been read (R147, R157). -/
def onNullByte (s : State) : Result := issue .reqTransition s

/-- The keypad sentinel has been read: flag exactly the next decode (R146, R158). -/
def onKeypadByte (s : State) : Result := issue .reqInstant (s.setKp true)

/-- A key transition has been read (R148, R159). -/
def onKeyByte (data : Byte) (s : State) : Result := issue .reqTransition (handKey data s)

/-- The instant byte has been read: a keypad key, and the flag is cleared (R150, R160). -/
def onInstantByte (data : Byte) (s : State) : Result := issue .reqTransition ((handKey data s).setKp false)

/-- The restart after any failed transfer (R151). -/
def restart (s : State) : Result := issue .queryModel (s.setKp false)

/-- Run `f` if SEQ is in state `st`: the precondition of a row. -/
def inState (st : SeqState) (f : State → Result) (s : State) : Result :=
  if s.seq.state = st then f s else .refused .preconditionFails

/-- A command row. The client of ENG used alone hands the byte to ENG (spec/30_encoding.md R74); otherwise SEQ issues
the command, in a state from which it issues it (R153 to R155). DEDUCED (log entry 9). -/
def commandRow (c : Command) (s : State) : Result :=
  match s.conf with
  | .engAlone => beginTransfer (engArmedWrite (commandByte c)) s
  | .top | .seqAlone => if issuedFrom c s.seq.state then issue c s else .refused .commandOutOfTurn

end Sys2Proof.Machine
end

