-- ==== Sys2Proof/Machine/Commands.lean ====
section
/-! DEFINITION. The command bytes, format CMD8 (spec/30_encoding.md R73; spec/41_sequencer.md R153 to R155). -/

namespace Sys2Proof.Machine

/-- QUERY_MODEL, `0x16` (R153). -/
def execQueryModel (s : State) : Result := commandRow .queryModel s

/-- REQ_TRANSITION, `0x10` (R154). -/
def execReqTransition (s : State) : Result := commandRow .reqTransition s

/-- REQ_INSTANT, `0x14` (R155). -/
def execReqInstant (s : State) : Result := commandRow .reqInstant s

end Sys2Proof.Machine
end

