-- ==== Sys2Proof/Machine/Completions.lean ====
section
/-! DEFINITION. The rows of the completion map, format CW12 (spec/30_encoding.md R88, R89; spec/41_sequencer.md R142 to
R151, R161), and the dispatch of a completion to its row. -/

namespace Sys2Proof.Machine

/-- T_BAD_STATE, state code 0 (R161): `refuse`. -/
def execTBadStateStopped (_fail : Bool) (_data : Byte) (_s : State) : Result := .refused .badState

/-- T_BAD_STATE, state code 7 (R161): `refuse`. -/
def execTBadStateCode7 (_fail : Bool) (_data : Byte) (_s : State) : Result := .refused .badState

/-- T_FAIL in state `st` (R151): the same restart in all six states; the byte is not looked at. For the code of
Stopped there is no such row (R161). -/
def execTFail (st : SeqState) (_data : Byte) (s : State) : Result :=
  if st = .stopped then .refused .badState else inState st restart s

/-- T_MODEL_W (R143). -/
def execTModelW (_data : Byte) (s : State) : Result := inState .awaitModelWrite (awaitReply .awaitModelRead) s

/-- T_MODEL_R (R144). -/
def execTModelR (_data : Byte) (s : State) : Result := inState .awaitModelRead onModelByte s

/-- T_TRANS_W (R145). -/
def execTTransW (_data : Byte) (s : State) : Result :=
  inState .awaitTransitionWrite (awaitReply .awaitTransitionRead) s

/-- T_TRANS_R_KEYPAD (R146). -/
def execTTransRKeypad (s : State) : Result := inState .awaitTransitionRead onKeypadByte s

/-- T_TRANS_R_NULL (R147). -/
def execTTransRNull (s : State) : Result := inState .awaitTransitionRead onNullByte s

/-- T_TRANS_R_KEY (R148): `data` not a sentinel. -/
def execTTransRKey (data : Byte) (s : State) : Result :=
  if isSentinel data then .refused .preconditionFails else inState .awaitTransitionRead (onKeyByte data) s

/-- T_INST_W (R149). -/
def execTInstW (_data : Byte) (s : State) : Result := inState .awaitInstantWrite (awaitReply .awaitInstantRead) s

/-- T_INST_R (R150). -/
def execTInstR (data : Byte) (s : State) : Result := inState .awaitInstantRead (onInstantByte data) s

/-- Run the row a completion selects. Only the rows of the completion map are completions. -/
def runRow (i : Instr) (s : State) : Result :=
  match i with
  | .tBadStateStopped fail data => execTBadStateStopped fail data s
  | .tBadStateCode7 fail data => execTBadStateCode7 fail data s
  | .tFail st data => execTFail st data s
  | .tModelW data => execTModelW data s
  | .tModelR data => execTModelR data s
  | .tTransW data => execTTransW data s
  | .tTransRKeypad => execTTransRKeypad s
  | .tTransRNull => execTTransRNull s
  | .tTransRKey data => execTTransRKey data s
  | .tInstW data => execTInstW data s
  | .tInstR data => execTInstR data s
  | .queryModel | .reqTransition | .reqInstant | .rspModel _ | .rspNull | .rspKeypadPending | .rspTransition _ _
  | .rspInstant _ _ | .reset | .start | .tick | .poll | .fall _ | .rise | .beginRead | .beginWrite _ =>
    .refused .preconditionFails

/-- Completion dispatch (R142): a completion of the wrong kind is refused; otherwise exactly one row applies, the one
of the completion word `{SEQ.state, fail, data}`. The row is selected on the word's three fields
(`Sys2Proof.decodeCW12_completionWord`: the same row as by the packed word). -/
def complete (kind : Dir) (result data : Byte) (s : State) : Result :=
  if kindDisagrees s.seq.state kind then .refused .kindDisagrees
  else runRow (completionRow (some s.seq.state) (failBit result) data) s

/-- In TOP a `Done` runs SEQ in the same step; ENG used alone only emits it (spec/40_engine_ops.md R126, spec/10_state.md
R33 (c)). -/
def toSequencer (kind : Dir) (result data : Byte) (s : State) : Result :=
  match s.conf with
  | .top => complete kind result data s
  | .engAlone | .seqAlone => .next s

/-- `emit Done(write, result)`: no byte, and the completion word's data is 0 (R126, R142). -/
def deliverWrite (result : Byte) (s : State) : Result := toSequencer .write result 0 (s.emit (.doneWrite result))

/-- `emit Done(read, result, data)` (R126). -/
def deliverRead (result data : Byte) (s : State) : Result :=
  toSequencer .read result data (s.emit (.doneRead result data))

end Sys2Proof.Machine
end

