-- ==== Sys2Proof/Machine/Events.lean ====
section
/-! DEFINITION. The events, format EV11 (spec/30_encoding.md R86): one definition for each, after the rule R86 names. -/

namespace Sys2Proof.Machine

/-- RESET (spec/70_reset_and_hazards.md R210): every field of the block takes its reset value; nothing is emitted. -/
def execReset (s : State) : Result := .next { s with eng := Eng.reset, seq := Seq.reset }

/-- START (spec/41_sequencer.md R141). -/
def execStart (s : State) : Result :=
  if s.seq.state = .stopped then issue .queryModel (s.setKp false) else .refused .alreadyStarted

/-- TICK (spec/40_engine_ops.md R114). -/
def execTick (s : State) : Result := .next (s.setEng (engTick Config.timeoutTicks s.eng))

/-- POLL (R126): take the completion, then deliver it; with nothing to deliver, no change (R127). The byte of a read
that failed is a free value (R128; log entry 7). -/
def execPoll (s : State) : Result :=
  if completed s.eng then
    let taken := s.setEng (engTaken s.eng)
    match s.eng.pending with
    | .none => .next taken
    | .pendingWrite => deliverWrite (resultCode s.eng) taken
    | .pendingRead =>
      if s.eng.status = .completedOk then deliverRead 0 s.eng.buf taken
      else deliverRead failCode (Config.failedReadByte s.freeIdx) taken.takeFree
  else .next s

/-- FALL d (R110, R112). -/
def execFall (d : Bool) (s : State) : Result := .next (s.setEng (engFall d s.eng))

/-- RISE (R113, R112). -/
def execRise (s : State) : Result := .next (s.setEng (engRise s.eng))

/-- BEGIN_READ (R102). -/
def execBeginRead (s : State) : Result := beginTransfer engArmedRead s

/-- BEGIN_WRITE b (R106). -/
def execBeginWrite (b : Byte) (s : State) : Result := beginTransfer (engArmedWrite b) s

end Sys2Proof.Machine
end

