-- ==== Sys2Proof/Machine/Responses.lean ====
section
/-! DEFINITION. The response classes, format RSP8 (spec/30_encoding.md R75 to R77; spec/41_sequencer.md R156 to R160): a
response byte read without failure in the state that classifies it. DEDUCED (log entry 10). -/

namespace Sys2Proof.Machine

/-- RSP_MODEL (R156): any value; discarded; handled by R144. -/
def execRspModel (_d : Byte) (s : State) : Result := inState .awaitModelRead onModelByte s

/-- RSP_NULL (R157), handled by R147. -/
def execRspNull (s : State) : Result := inState .awaitTransitionRead onNullByte s

/-- RSP_KEYPAD_PENDING (R158), handled by R146. -/
def execRspKeypadPending (s : State) : Result := inState .awaitTransitionRead onKeypadByte s

/-- RSP_TRANSITION (R159): any other byte, handled by R148; the sentinels are not of this class (R75). -/
def execRspTransition (up : Bool) (scancode : BitVec 7) (s : State) : Result :=
  if isSentinel (responseByte up scancode) then .refused .preconditionFails
  else inState .awaitTransitionRead (onKeyByte (responseByte up scancode)) s

/-- RSP_INSTANT (R160): any value, no sentinel test; handled by R150. -/
def execRspInstant (up : Bool) (scancode : BitVec 7) (s : State) : Result :=
  inState .awaitInstantRead (onInstantByte (responseByte up scancode)) s

end Sys2Proof.Machine
end

