-- ==== Sys2Proof/Machine/Dispatch.lean ====
section
/-! DEFINITION. The meaning of every instruction: one arm per constructor of Instr. -/

namespace Sys2Proof.Machine

def exec (i : Instr) (s : State) : Host.Outcome State Fault Refusal :=
  match i with
  | .queryModel => Sys2Proof.Machine.execQueryModel s
  | .reqTransition => Sys2Proof.Machine.execReqTransition s
  | .reqInstant => Sys2Proof.Machine.execReqInstant s
  | .rspModel d => Sys2Proof.Machine.execRspModel d s
  | .rspNull => Sys2Proof.Machine.execRspNull s
  | .rspKeypadPending => Sys2Proof.Machine.execRspKeypadPending s
  | .rspTransition up scancode => Sys2Proof.Machine.execRspTransition up scancode s
  | .rspInstant up scancode => Sys2Proof.Machine.execRspInstant up scancode s
  | .reset => Sys2Proof.Machine.execReset s
  | .start => Sys2Proof.Machine.execStart s
  | .tick => Sys2Proof.Machine.execTick s
  | .poll => Sys2Proof.Machine.execPoll s
  | .fall d => Sys2Proof.Machine.execFall d s
  | .rise => Sys2Proof.Machine.execRise s
  | .beginRead => Sys2Proof.Machine.execBeginRead s
  | .beginWrite b => Sys2Proof.Machine.execBeginWrite b s
  | .tBadStateStopped fail data => Sys2Proof.Machine.execTBadStateStopped fail data s
  | .tBadStateCode7 fail data => Sys2Proof.Machine.execTBadStateCode7 fail data s
  | .tFail st data => Sys2Proof.Machine.execTFail st data s
  | .tModelW data => Sys2Proof.Machine.execTModelW data s
  | .tModelR data => Sys2Proof.Machine.execTModelR data s
  | .tTransW data => Sys2Proof.Machine.execTTransW data s
  | .tTransRKeypad => Sys2Proof.Machine.execTTransRKeypad s
  | .tTransRNull => Sys2Proof.Machine.execTTransRNull s
  | .tTransRKey data => Sys2Proof.Machine.execTTransRKey data s
  | .tInstW data => Sys2Proof.Machine.execTInstW data s
  | .tInstR data => Sys2Proof.Machine.execTInstR data s

end Sys2Proof.Machine
end

