-- ==== Sys2Proof/Machine/Ports.lean ====
section
/-! DEFINITION. The block's ports: decoding the input that is presented, which configuration accepts it
(spec/30_encoding.md R87), and placing a bare table word on the port. -/

namespace Sys2Proof.Machine

/-- A decoder's refusal as a refusal of the machine. -/
def orUndecodable (r : Except DecodeError Instr) : Except Refusal Instr :=
  match r with
  | .ok i => .ok i
  | .error e => .error (.undecodable e)

/-- The instruction an input stands for while SEQ is in state `st`. For `Done(kind, result, data)` it is the row of the
completion word `{st, fail, data}`, data 0 for a write (spec/41_sequencer.md R142), and a completion of the wrong kind
is refused. -/
def decodeItem (st : SeqState) (item : PortItem) : Except Refusal Instr :=
  match item with
  | .event w => orUndecodable (decodeEV11 w)
  | .command b => orUndecodable (decodeCMD8 b)
  | .response b => orUndecodable (decodeRSP8 st b)
  | .completion w => .ok (decodeCW12 w)
  | .done kind result data =>
    if kindDisagrees st kind then .error .kindDisagrees
    else .ok (completionRow (some st) (failBit result) (if kind = .read then data else 0))
  | .startSeq => .ok .start
  | .resetSeq => .ok .reset

/-- Which sort of input each configuration takes (R87): event words TOP and ENG alone, and not SEQ alone; command bytes the
client of ENG alone; completions (R88), response bytes, START and RESET that are no event words (DEDUCED, log entry 8)
SEQ alone. -/
def takesInput (c : Configuration) (item : PortItem) : Bool :=
  match item with
  | .event _ => c != .seqAlone
  | .command _ => c == .engAlone
  | .response _ | .completion _ | .done _ _ _ | .startSeq | .resetSeq => c == .seqAlone

/-- Which instructions each configuration runs for an input (R87): TOP the events of kinds 0 to 5, ENG alone those of kinds
0 and 2 to 7 and its client's command bytes, SEQ alone completions and response bytes, and START and RESET, the inputs
that R140 and R210 give it (DEDUCED, log entry 8). -/
def accepts (c : Configuration) (i : Instr) : Bool :=
  match i with
  | .reset => true
  | .start => c != .engAlone
  | .tick | .poll | .fall _ | .rise => c != .seqAlone
  | .beginRead | .beginWrite _ => c == .engAlone
  | .queryModel | .reqTransition | .reqInstant => c == .engAlone
  | .rspModel _ | .rspNull | .rspKeypadPending | .rspTransition _ _ | .rspInstant _ _ => c == .seqAlone
  | .tBadStateStopped _ _ | .tBadStateCode7 _ _ | .tFail _ _ | .tModelW _ | .tModelR _ | .tTransW _ | .tTransRKeypad
  | .tTransRNull | .tTransRKey _ | .tInstW _ | .tInstR _ => c == .seqAlone

/-- The configuration accepts the input `item`, which stands for the instruction `i`: it takes that sort of input and runs
that instruction. -/
def acceptsInput (c : Configuration) (item : PortItem) (i : Instr) : Bool := takesInput c item && accepts c i

/-- The next input, decoded: none when nothing is presented, a refusal when the input is no instruction or is not
accepted here. -/
def fetch (s : State) : Option (Except Refusal Instr) :=
  match s.port with
  | [] => none
  | item :: _ =>
    match decodeItem s.seq.state item with
    | .error r => some (.error r)
    | .ok i => some (if acceptsInput s.conf item i then .ok i else .error .notAccepted)

/-- The state after the oldest input has been taken. -/
def State.takeItem (s : State) : State := { s with port := s.port.tail }

/-- The configuration in which the next step accepts the event `i` as an event word: the present one if it does. -/
def homeConf (c : Configuration) (i : Instr) : Configuration :=
  if c != .seqAlone && accepts c i then c
  else if accepts .top i then .top
  else .engAlone

/-- Present `item` as the next input of configuration `c`. -/
def State.present (s : State) (c : Configuration) (item : PortItem) : State :=
  { s with conf := c, port := item :: s.port }

/-- The bare table word `w` of `nbits` bits presented as the next input, in a configuration that accepts it. A response
byte and a completion word are fetched by SEQ's state, the block's analogue of a program counter (spec/10_state.md
R30), which is set to theirs. A word wider than its format cannot be presented. DESIGN CHOICE (log entry 5). -/
def State.placeTableWord (s : State) (nbits w : Nat) : State :=
  match tableFormat nbits w with
  | none => s
  | some f =>
    if 2 ^ f.width ≤ w then s
    else
      match f with
      | .cmd8 => s.present .engAlone (.command (BitVec.ofNat 8 w))
      | .rsp8 st => (s.goto st).present .seqAlone (.response (BitVec.ofNat 8 w))
      | .ev11 =>
        let word := BitVec.ofNat 11 w
        match decodeEV11 word with
        | .ok i => s.present (homeConf s.conf i) (.event word)
        | .error _ => s.present s.conf (.event word)
      | .cw12 =>
        let word := BitVec.ofNat 12 w
        match SeqState.ofCode (word.extractLsb' 9 3) with
        | some st => (s.goto st).present .seqAlone (.completion word)
        | none => s.present .seqAlone (.completion word)

end Sys2Proof.Machine
end

