-- ==== Sys2Proof/Machine/Step.lean ====
section
/-! DEFINITION. One step: take the oldest input and run it (spec/20_memory.md R60: one event is one atomic step). -/

namespace Sys2Proof.Machine

/-- One step. With nothing presented the block waits: nothing changes (DESIGN CHOICE, log entry 2). -/
def step (s : State) : Host.Outcome State Fault Refusal :=
  match fetch s with
  | none => .next s
  | some (.error r) => .refused r
  | some (.ok i) => exec i s.takeItem

/-- `s` with a table word as its next input (`State.placeTableWord`). -/
def State.withFetchWord (s : State) (nbits w : Nat) : State := s.placeTableWord nbits w

end Sys2Proof.Machine
end

