-- ==== Sys2Proof/Machine/Traces.lean ====
section
/-! DEFINITION. Traces: running events in order, the trace macros (spec/30_encoding.md R91), and the trace syntax of
events and outputs (R90). -/

namespace Sys2Proof.Machine

/-- The state after a trace: the rules applied in order (spec/00_scope.md R17). -/
def runTrace : List Instr → State → Result
  | [], s => .next s
  | i :: rest, s => andThen (exec i s) (runTrace rest)

/-- `TP`: one tick period (R91, spec/20_memory.md R68). -/
def macroTP : List Instr := [.tick, .poll]

/-- `PULSE d`: one whole clock pulse (R91). -/
def macroPulse (d : Bool) : List Instr := [.fall d, .rise]

/-- Eight pulses with the levels `d 7, d 6, …, d 0`. -/
def eightPulses (d : Nat → Bool) : List Instr :=
  macroPulse (d 7) ++ macroPulse (d 6) ++ macroPulse (d 5) ++ macroPulse (d 4) ++ macroPulse (d 3) ++ macroPulse (d 2)
    ++ macroPulse (d 1) ++ macroPulse (d 0)

/-- `RXBYTE v`: the peer clocks the byte `v` in (R91). -/
def macroRxByte (v : Byte) : List Instr := eightPulses (bitOf v)

/-- `TXCLK`: `PULSE *` eight times; `level k` is the resolved line level at the pulse that carries bit `k` (R90, R91). -/
def macroTxClk (level : Nat → Bool) : List Instr := eightPulses level

/-- `WRITE_OK`: a whole successful write and the delivery of its completion (R91). -/
def macroWriteOk (level : Nat → Bool) : List Instr := macroTxClk level ++ macroTP

/-- `READ_OK v`: the re-arm tick, a whole successful read, and the delivery of its completion (R91). -/
def macroReadOk (v : Byte) : List Instr := macroTP ++ macroRxByte v ++ macroTP

/-- `TP` repeated `k` times. -/
def tickPeriods : Nat → List Instr
  | 0 => []
  | k + 1 => macroTP ++ tickPeriods k

/-- `TIMEOUT`: `TP` repeated TIMEOUT_TICKS + 1 times (R91). -/
def macroTimeout : List Instr := tickPeriods (Config.timeoutTicks + 1)

/-- One hexadecimal digit. -/
def hexDigit (n : Nat) : String :=
  (["0", "1", "2", "3", "4", "5", "6", "7", "8", "9", "a", "b", "c", "d", "e", "f"][n]?).getD "?"

/-- A byte as `0x` and two hexadecimal digits. -/
def hexByte (b : Byte) : String := "0x" ++ hexDigit (b.toNat / 16) ++ hexDigit (b.toNat % 16)

/-- One bit as a decimal digit. -/
def bitText (d : Bool) : String := if d then "1" else "0"

/-- The line of a trace for an event (R90); the other formats are no events and have no line. -/
def traceLine (i : Instr) : Option String :=
  match i with
  | .reset => some "RESET"
  | .start => some "START"
  | .tick => some "TICK"
  | .poll => some "POLL"
  | .fall d => some ("FALL " ++ bitText d)
  | .rise => some "RISE"
  | .beginRead => some "BEGIN_READ"
  | .beginWrite b => some ("BEGIN_WRITE " ++ hexByte b)
  | .queryModel | .reqTransition | .reqInstant | .rspModel _ | .rspNull | .rspKeypadPending | .rspTransition _ _
  | .rspInstant _ _ | .tBadStateStopped _ _ | .tBadStateCode7 _ _ | .tFail _ _ | .tModelW _ | .tModelR _ | .tTransW _
  | .tTransRKeypad | .tTransRNull | .tTransRKey _ | .tInstW _ | .tInstR _ => none

/-- An output as it is written after `=>` (R90). -/
def outputText (x : Emit) : String :=
  match x with
  | .doneRead result data => "Done(read, " ++ toString result.toNat ++ ", " ++ hexByte data ++ ")"
  | .doneWrite result => "Done(write, " ++ toString result.toNat ++ ")"
  | .key raw keypad => "Key(" ++ hexByte raw ++ ", keypad=" ++ bitText keypad ++ ")"
  | .cmdRead => "Cmd(BEGIN_READ)"
  | .cmdWrite b => "Cmd(BEGIN_WRITE, " ++ hexByte b ++ ")"

/-- The emits that leave the block (spec/10_state.md R33): `Key` from TOP and from SEQ alone, `Done` from ENG alone,
`Cmd` from SEQ alone; in TOP `Done` and `Cmd` are internal. -/
def leavesBlock (c : Configuration) (x : Emit) : Bool :=
  match x with
  | .key _ _ => c != .engAlone
  | .doneRead _ _ | .doneWrite _ => c == .engAlone
  | .cmdRead | .cmdWrite _ => c == .seqAlone

/-- The outputs of the block so far, oldest first (R33). -/
def State.outputs (s : State) : List Emit := s.emits.filter (leavesBlock s.conf)

end Sys2Proof.Machine
end

