-- ==== Sys2Proof/Safety.lean ====
section
/-! DEFINITION. What a sound state is (the invariants of spec/10_state.md R31, R35, R36), what the environment owes the
block (spec/70_reset_and_hazards.md R217, spec/20_memory.md R58), and which context an event belongs to
(spec/60_exceptions.md R188). -/

namespace Sys2Proof.Machine

/-- The ENG invariants I1 to I7 (R35), for the threshold `n`. -/
structure EngInv (n : Nat) (e : Eng) : Prop where
  /-- I1 -/
  idle_iff_no_pending : e.status = .idle ↔ e.pending = .none
  /-- I2 -/
  quiet_outside : e.status ≠ .inProgress → e.edgeSense = .off ∧ e.rearmWait = false ∧ e.dataDrive = .released
  /-- I3, read -/
  pendingRead_dir : e.pending = .pendingRead → e.dir = .read
  /-- I3, write -/
  pendingWrite_dir : e.pending = .pendingWrite → e.dir = .write
  /-- I4, first half -/
  off_iff_rearm : e.status = .inProgress → (e.edgeSense = .off ↔ e.rearmWait = true)
  /-- I4, "and then" -/
  off_read_empty : e.status = .inProgress → e.edgeSense = .off → e.dir = .read ∧ e.nbits = 0
  /-- I4, falling -/
  falling_room : e.status = .inProgress → e.edgeSense = .falling → e.nbits ≤ 7
  /-- I4, rising -/
  rising_iff_full : e.status = .inProgress → (e.edgeSense = .rising ↔ e.nbits = 8)
  /-- I5, the bit count -/
  nbits_le : e.nbits ≤ 8
  /-- I5, the counter while in progress -/
  ticks_in_progress : e.status = .inProgress → e.idleTicks ≤ n
  /-- I5, the counter -/
  ticks_le : e.idleTicks ≤ n + 1
  /-- I6 -/
  read_released : e.status = .inProgress → e.dir = .read → e.dataDrive = .released
  /-- I7 -/
  ok_full : e.status = .completedOk → e.nbits = 8

/-- SEQ is in an instant exchange (R31). -/
def inInstant (st : SeqState) : Bool := st == .awaitInstantWrite || st == .awaitInstantRead

/-- The byte in ENG's buffer while SEQ awaits the end of a write (R36, T3). -/
def commandInFlight : SeqState → Option Byte
  | .awaitModelWrite => some 0x16
  | .awaitTransitionWrite => some 0x10
  | .awaitInstantWrite => some 0x14
  | .stopped | .awaitModelRead | .awaitTransitionRead | .awaitInstantRead => none

/-- The TOP invariants T1 to T4 (R36). -/
structure TopInv (s : State) : Prop where
  /-- T1 and T2: SEQ is stopped exactly while ENG is idle -/
  stopped_iff_idle : s.seq.state = .stopped ↔ s.eng.status = .idle
  /-- T3, write states -/
  write_armed : ∀ b, commandInFlight s.seq.state = some b → s.eng.pending = .pendingWrite ∧ s.eng.buf = b
  /-- T3, read states -/
  read_armed : awaitedKind s.seq.state = some .read → s.eng.pending = .pendingRead
  /-- T4 -/
  kp_iff_instant : s.seq.kpPending = inInstant s.seq.state

/-- The invariant of the machine: R35 in every configuration, R36 in TOP; in ENG alone SEQ, and in SEQ alone ENG, is as
after reset, and SEQ alone keeps the flag as in R31. -/
structure StateInv (s : State) : Prop where
  eng : EngInv Config.timeoutTicks s.eng
  top : s.conf = .top → TopInv s
  engAlone : s.conf = .engAlone → s.seq = Seq.reset
  seqAlone : s.conf = .seqAlone → s.eng = Eng.reset ∧ s.seq.kpPending = inInstant s.seq.state

/-- The environment's duty toward TOP for the next input: an event that is not reserved, of kinds 0 to 5, and START only
while SEQ is stopped (R217: apply START once; apply no BEGIN). -/
def TopDuty (s : State) : Prop :=
  ∀ item rest, s.port = item :: rest →
    ∃ w i, item = .event w ∧ decodeEV11 w = .ok i ∧ accepts .top i = true ∧ (i = .start → s.seq.state = .stopped)

/-- The environment's duty for the operand of FALL: it is the resolved line level for some pull of the peer (R58). The
block checks nothing of it (log entry 14). -/
def FallDuty (s : State) (d : Bool) : Prop := ∃ peerPulls, d = lineLevel s.eng.dataDrive peerPulls

/-- The two execution contexts (R188). -/
inductive Context where
  | interrupt
  | main
  deriving DecidableEq, Repr

/-- The context that raises an instruction: FALL and RISE the interrupt context, everything else the main one (R188). -/
def contextOf (i : Instr) : Context :=
  match i with
  | .fall _ | .rise => .interrupt
  | .reset | .start | .tick | .poll | .beginRead | .beginWrite _ | .queryModel | .reqTransition | .reqInstant
  | .rspModel _ | .rspNull | .rspKeypadPending | .rspTransition _ _ | .rspInstant _ _ | .tBadStateStopped _ _
  | .tBadStateCode7 _ _ | .tFail _ _ | .tModelW _ | .tModelR _ | .tTransW _ | .tTransRKeypad | .tTransRNull
  | .tTransRKey _ | .tInstW _ | .tInstR _ => .main

/-- A `Done` emit: a completion delivered (spec/40_engine_ops.md R129). -/
def isDone (x : Emit) : Bool :=
  match x with
  | .doneRead _ _ | .doneWrite _ => true
  | .key _ _ | .cmdRead | .cmdWrite _ => false

/-- A `Key` emit (spec/41_sequencer.md R152). -/
def isKey (x : Emit) : Bool :=
  match x with
  | .key _ _ => true
  | .doneRead _ _ | .doneWrite _ | .cmdRead | .cmdWrite _ => false

/-- A `Cmd` emit (spec/41_sequencer.md R163). -/
def isCmd (x : Emit) : Bool :=
  match x with
  | .cmdRead | .cmdWrite _ => true
  | .doneRead _ _ | .doneWrite _ | .key _ _ => false

/-- The instruction starts a transfer on ENG in this configuration: the two BEGINs (spec/10_state.md R24); the command
byte that the client of ENG alone hands over (log entry 9); in TOP what issues a `Cmd`, which runs the BEGIN inside the
same step (spec/00_scope.md R16). -/
def startsTransfer (conf : Configuration) (i : Instr) : Bool :=
  match i with
  | .beginRead | .beginWrite _ => true
  | .queryModel | .reqTransition | .reqInstant => conf != .seqAlone
  | .start | .rspModel _ | .rspNull | .rspKeypadPending | .rspTransition _ _ | .rspInstant _ _ | .tFail _ _ | .tModelW _
  | .tModelR _ | .tTransW _ | .tTransRKeypad | .tTransRNull | .tTransRKey _ | .tInstW _ | .tInstR _ => conf == .top
  | .reset | .tick | .poll | .fall _ | .rise | .tBadStateStopped _ _ | .tBadStateCode7 _ _ => false

/-- The transitions of `ENG.status` a step may make (spec/10_state.md R24), staying put included. RESET takes every status
to idle (spec/70_reset_and_hazards.md R210). A POLL of TOP may go from a completed status through idle to the next
transfer in one step (spec/20_memory.md R60). -/
def statusEdge (conf : Configuration) (i : Instr) (a b : Status) : Bool :=
  a == b ||
    match a, b with
    | .idle, .inProgress => startsTransfer conf i
    | .inProgress, .completedOk => i == .rise
    | .inProgress, .completedFailed => i == .tick
    | .completedOk, .idle | .completedFailed, .idle => i == .poll || i == .reset
    | .inProgress, .idle => i == .reset
    | .completedOk, .inProgress | .completedFailed, .inProgress => i == .poll && conf == .top
    | .idle, _ | .inProgress, _ | .completedOk, _ | .completedFailed, _ => false

/-- The complete state graph of SEQ (spec/41_sequencer.md R162). -/
def seqEdge (a b : SeqState) : Bool :=
  match a, b with
  | .stopped, .awaitModelWrite => true
  | .awaitModelWrite, .awaitModelRead => true
  | .awaitModelRead, .awaitTransitionWrite => true
  | .awaitTransitionWrite, .awaitTransitionRead => true
  | .awaitTransitionRead, .awaitTransitionWrite => true
  | .awaitTransitionRead, .awaitInstantWrite => true
  | .awaitInstantWrite, .awaitInstantRead => true
  | .awaitInstantRead, .awaitTransitionWrite => true
  | .stopped, _ => false
  | a, .awaitModelWrite => a != .stopped
  | _, _ => false

/-- The `Cmd` with which a state of SEQ is entered (spec/41_sequencer.md R163); none for Stopped. -/
def enteringCmd (st : SeqState) : Option Emit :=
  match st with
  | .stopped => none
  | .awaitModelWrite => some (.cmdWrite 0x16)
  | .awaitTransitionWrite => some (.cmdWrite 0x10)
  | .awaitInstantWrite => some (.cmdWrite 0x14)
  | .awaitModelRead | .awaitTransitionRead | .awaitInstantRead => some .cmdRead

/-- FALL or RISE. -/
def isEdge (i : Instr) : Bool :=
  match i with
  | .fall _ | .rise => true
  | .reset | .start | .tick | .poll | .beginRead | .beginWrite _ | .queryModel | .reqTransition | .reqInstant
  | .rspModel _ | .rspNull | .rspKeypadPending | .rspTransition _ _ | .rspInstant _ _ | .tBadStateStopped _ _
  | .tBadStateCode7 _ _ | .tFail _ _ | .tModelW _ | .tModelR _ | .tTransW _ | .tTransRKeypad | .tTransRNull
  | .tTransRKey _ | .tInstW _ | .tInstR _ => false

/-- FALL. -/
def isFall (i : Instr) : Bool := isEdge i && i != .rise

/-- One pulse for each level, in order. -/
def pulses : List Bool → List Instr
  | [] => []
  | d :: ds => macroPulse d ++ pulses ds

/-- The trace's edges are `edges`, in order, and all it holds besides are TICKs and POLLs. -/
def Interleaves (trace edges : List Instr) : Prop :=
  (∀ i ∈ trace, i = .tick ∨ i = .poll ∨ isEdge i = true) ∧ trace.filter isEdge = edges

/-- The number of TICKs in a trace. -/
def ticksIn (trace : List Instr) : Nat := trace.countP (· == .tick)

/-- The number of FALLs in a trace. -/
def fallsIn (trace : List Instr) : Nat := trace.countP isFall

end Sys2Proof.Machine
end

