-- ==== Sys2Proof/Certificates/Slice0/Obligations.lean ====
section
/-! DEFINITION. The statements for the provers, from the spec's numbered rules. A premise `StateInv s` or a bound on a field is
an invariant that is itself stated here (`EveryStepKeepsTheInvariant`, `ResetHasTheInvariant`). No statement depends on
the value of a free byte. -/

open Sys2Proof Sys2Proof.Machine

/-! ### Reset -/

/-- R210: RESET is the word 0x000, is accepted in every state, gives every field of the block its reset value and emits
nothing. -/
def Obligations.ResetGivesEveryFieldItsResetValue : Prop :=
  decodeEV11 0x000 = .ok .reset ∧
  ∀ s : State,
    exec .reset s = .next { s with
      eng := { dir := .read, buf := 0x00, nbits := 0, status := .idle, idleTicks := 0, pending := .none,
               edgeSense := .off, rearmWait := false, dataDrive := .released }
      seq := { state := .stopped, kpPending := false } }

/-- R38, the eleven fields of the state after reset. The other four fields are the model's own (log entries 1, 2, 3, 7)
and are not stated here. -/
def Obligations.StateAfterResetHasTheResetValues : Prop :=
  State.reset.eng = { dir := .read, buf := 0x00, nbits := 0, status := .idle, idleTicks := 0, pending := .none,
                      edgeSense := .off, rearmWait := false, dataDrive := .released } ∧
  State.reset.seq = { state := .stopped, kpPending := false }

/-! ### Starting a transfer -/

/-- R102: BEGIN_READ, word 0x600, from idle arms a read with every field of ENG as written there and nothing else
changed; in any other status it is refused; and no instruction but by these writes turns `rearm_wait` on. -/
def Obligations.BeginReadArmsARead : Prop :=
  decodeEV11 0x600 = .ok .beginRead ∧
  (∀ s : State, s.eng.status = .idle →
    exec .beginRead s = .next { s with
      eng := { dir := .read, buf := 0x00, nbits := 0, status := .inProgress, idleTicks := 0, pending := .pendingRead,
               edgeSense := .off, rearmWait := true, dataDrive := .released } }) ∧
  (∀ s : State, s.eng.status ≠ .idle → exec .beginRead s = .refused .transferNotIdle) ∧
  (∀ (i : Instr) (s t : State), exec i s = .next t → s.eng.rearmWait = false → t.eng.rearmWait = true →
    t.eng = { dir := .read, buf := 0x00, nbits := 0, status := .inProgress, idleTicks := 0, pending := .pendingRead,
              edgeSense := .off, rearmWait := true, dataDrive := .released })

/-- R106: BEGIN_WRITE b, word 0x700 + b, for every byte, from idle arms a write with every field of ENG as written there
and nothing else changed, and a falling edge right after it is sensed; in any other status it is refused. -/
def Obligations.BeginWriteArmsAWrite : Prop :=
  (∀ b : Byte, decodeEV11 (0x700 + b.setWidth 11) = .ok (.beginWrite b)) ∧
  (∀ (s : State) (b : Byte), s.eng.status = .idle →
    ∃ t, t = { s with
        eng := { dir := .write, buf := b, nbits := 0, status := .inProgress, idleTicks := 0, pending := .pendingWrite,
                 edgeSense := .falling, rearmWait := false, dataDrive := .low } } ∧
      exec (.beginWrite b) s = .next t ∧
      ∀ d, ∃ u, exec (.fall d) t = .next u ∧ u.eng.nbits = 1) ∧
  (∀ (s : State) (b : Byte), s.eng.status ≠ .idle → exec (.beginWrite b) s = .refused .transferNotIdle)

/-! ### Edges -/

/-- R110: FALL d, words 0x400 and 0x401. A sensed falling edge (with at most seven bits transferred, which the invariants
of ENG give) samples bit `7 - nbits` on a read and drives it on a write, advances the count, and on the eighth bit
switches the edge sense; nothing else changes. On a write `d` is ignored. Otherwise no change. -/
def Obligations.FallTransfersTheNextBit : Prop :=
  decodeEV11 0x400 = .ok (.fall false) ∧ decodeEV11 0x401 = .ok (.fall true) ∧
  (∀ (n : Nat) (e : Eng), EngInv n e → e.status = .inProgress → e.edgeSense = .falling → e.nbits ≤ 7) ∧
  (∀ (s : State) (d : Bool), ¬ (s.eng.status = .inProgress ∧ s.eng.edgeSense = .falling) →
    exec (.fall d) s = .next s) ∧
  ∀ (s : State) (d : Bool), s.eng.status = .inProgress → s.eng.edgeSense = .falling → s.eng.nbits ≤ 7 →
    (s.eng.dir = .read →
      ∃ buf' : Byte,
        (∀ j, j < 8 → bitOf buf' j = if j = 7 - s.eng.nbits then d else bitOf s.eng.buf j) ∧
        exec (.fall d) s = .next { s with
          eng := { s.eng with buf := buf', nbits := s.eng.nbits + 1,
                              edgeSense := if s.eng.nbits + 1 = 8 then .rising else .falling } }) ∧
    (s.eng.dir = .write →
      exec (.fall d) s = .next { s with
        eng := { s.eng with dataDrive := if bitOf s.eng.buf (7 - s.eng.nbits) then .released else .low,
                            nbits := s.eng.nbits + 1,
                            edgeSense := if s.eng.nbits + 1 = 8 then .rising else .falling } })

/-- R112: an edge that is not sensed changes nothing and is not remembered. -/
def Obligations.UnsensedEdgesChangeNothing : Prop :=
  ∀ s : State,
    (∀ d, ¬ (s.eng.status = .inProgress ∧ s.eng.edgeSense = .falling) → exec (.fall d) s = .next s) ∧
    (¬ (s.eng.status = .inProgress ∧ s.eng.edgeSense = .rising) → exec .rise s = .next s)

/-- R113: RISE, word 0x500. A sensed rising edge (all eight bits are then transferred) releases the bus and marks
completion; nothing else changes; otherwise no change. -/
def Obligations.RiseMarksCompletion : Prop :=
  decodeEV11 0x500 = .ok .rise ∧
  (∀ s : State, s.eng.status = .inProgress → s.eng.edgeSense = .rising →
    exec .rise s = .next { s with
      eng := { s.eng with dataDrive := .released, edgeSense := .off, status := .completedOk } }) ∧
  (∀ (n : Nat) (s : State), EngInv n s.eng → s.eng.status = .inProgress → s.eng.edgeSense = .rising →
    s.eng.nbits = 8) ∧
  (∀ s : State, ¬ (s.eng.status = .inProgress ∧ s.eng.edgeSense = .rising) → exec .rise s = .next s)

/-! ### TICK and the timeout -/

/-- R114, R122, R123: TICK, word 0x200. In progress it re-arms a waiting read, counts, and if the count exceeds
TIMEOUT_TICKS forces completion with failure; otherwise no change. `buf`, `nbits`, `pending`, `dir` keep their values
and nothing is emitted. The TICK that re-arms a read just begun never fails it. -/
def Obligations.TickRearmsCountsAndTests : Prop :=
  decodeEV11 0x200 = .ok .tick ∧ 1 ≤ Config.timeoutTicks ∧
  (∀ s : State, s.eng.status = .inProgress → s.eng.idleTicks + 1 ≤ Config.timeoutTicks →
    exec .tick s = .next { s with
      eng := { s.eng with rearmWait := false, idleTicks := s.eng.idleTicks + 1,
                          edgeSense := if s.eng.rearmWait then .falling else s.eng.edgeSense } }) ∧
  (∀ s : State, s.eng.status = .inProgress → Config.timeoutTicks < s.eng.idleTicks + 1 →
    exec .tick s = .next { s with
      eng := { s.eng with idleTicks := s.eng.idleTicks + 1, status := .completedFailed, edgeSense := .off,
                          rearmWait := false, dataDrive := .released } }) ∧
  (∀ s : State, s.eng.status ≠ .inProgress → exec .tick s = .next s) ∧
  (∀ s : State, s.eng = engArmedRead →
    exec .tick s = .next { s with
      eng := { engArmedRead with rearmWait := false, edgeSense := .falling, idleTicks := 1 } })

/-- R118: of a transfer armed with `idle_ticks = 0`, the k-th TICK leaves `idle_ticks = k`; TICKs 1 to TIMEOUT_TICKS leave
it in progress and TICK number TIMEOUT_TICKS + 1 fails it, whatever edges and POLLs come between, as long as no rising
edge that completes it came first. -/
def Obligations.TheTickPastTheThresholdFails : Prop :=
  ∀ (s : State) (trace : List Instr), s.eng.status = .inProgress → s.eng.idleTicks = 0 →
    (∀ i ∈ trace, i = .tick ∨ i = .poll ∨ isEdge i = true) →
    (∀ p q u, trace = p ++ q → runTrace p s = .next u → u.eng.status ≠ .completedOk) →
    (ticksIn trace ≤ Config.timeoutTicks →
      ∃ t, runTrace trace s = .next t ∧ t.eng.status = .inProgress ∧ t.eng.idleTicks = ticksIn trace) ∧
    (ticksIn trace = Config.timeoutTicks →
      ∃ t, runTrace (trace ++ [.tick]) s = .next t ∧ t.eng.status = .completedFailed ∧
        t.eng.idleTicks = Config.timeoutTicks + 1)

/-- R181: a transfer fails at a TICK that takes the counter past TIMEOUT_TICKS and nowhere else. -/
def Obligations.OnlyTickFailsATransfer : Prop :=
  ∀ (i : Instr) (s t : State), exec i s = .next t → s.eng.status ≠ .completedFailed →
    t.eng.status = .completedFailed →
    i = .tick ∧ s.eng.status = .inProgress ∧ Config.timeoutTicks < t.eng.idleTicks

/-! ### POLL -/

/-- R126: POLL, word 0x300, where ENG is not composed with SEQ. A completed transfer is taken (idle, nothing pending, the
other fields of ENG as they are) and exactly its `Done` is emitted: result 0 with the assembled byte or FAIL_CODE = 1;
no byte for a write. The byte of a failed read is some byte (R128: any value), and the model's counter of free bytes
advances (log entry 7). -/
def Obligations.PollTakesTheCompletion : Prop :=
  decodeEV11 0x300 = .ok .poll ∧
  ∀ s : State, s.conf ≠ .top →
    (s.eng.status = .completedOk → s.eng.pending = .pendingRead →
      exec .poll s = .next { s with eng := { s.eng with status := .idle, pending := .none },
                                    emits := s.emits ++ [.doneRead 0 s.eng.buf] }) ∧
    (s.eng.status = .completedOk → s.eng.pending = .pendingWrite →
      exec .poll s = .next { s with eng := { s.eng with status := .idle, pending := .none },
                                    emits := s.emits ++ [.doneWrite 0] }) ∧
    (s.eng.status = .completedFailed → s.eng.pending = .pendingRead →
      ∃ d, exec .poll s = .next { s with eng := { s.eng with status := .idle, pending := .none },
                                         emits := s.emits ++ [.doneRead 1 d], freeIdx := s.freeIdx + 1 }) ∧
    (s.eng.status = .completedFailed → s.eng.pending = .pendingWrite →
      exec .poll s = .next { s with eng := { s.eng with status := .idle, pending := .none },
                                    emits := s.emits ++ [.doneWrite 1] })

/-- R92 (R112, R123, R127): the events with no effect are identity steps, not refusals. -/
def Obligations.EventsWithNoEffectAreIdentitySteps : Prop :=
  ∀ s : State,
    (∀ d, ¬ (s.eng.status = .inProgress ∧ s.eng.edgeSense = .falling) → exec (.fall d) s = .next s) ∧
    (¬ (s.eng.status = .inProgress ∧ s.eng.edgeSense = .rising) → exec .rise s = .next s) ∧
    (s.eng.status ≠ .inProgress → exec .tick s = .next s) ∧
    (s.eng.status = .idle ∨ s.eng.status = .inProgress → exec .poll s = .next s)

/-- R142, R126 in TOP: a POLL that delivers runs, on the state with the completion taken and its `Done` emitted, exactly
the row the completion word `{SEQ.state, fail, data}` decodes to; data is 0 for a write. The byte of a failed read is
some byte in place of R126's buffer (R128, U6: any value), and the model's counter of free bytes advances (the model's
choice, log entry 7). -/
def Obligations.PollInTopRunsTheCompletionRow : Prop :=
  ∀ s : State, s.conf = .top →
    (s.eng.status = .completedOk → s.eng.pending = .pendingRead → awaitedKind s.seq.state = some .read →
      exec .poll s =
        exec (decodeCW12 (completionWord s.seq.state.code false s.eng.buf))
          { s with eng := { s.eng with status := .idle, pending := .none },
                   emits := s.emits ++ [.doneRead 0 s.eng.buf] }) ∧
    (s.eng.status = .completedOk → s.eng.pending = .pendingWrite → awaitedKind s.seq.state = some .write →
      exec .poll s =
        exec (decodeCW12 (completionWord s.seq.state.code false 0))
          { s with eng := { s.eng with status := .idle, pending := .none },
                   emits := s.emits ++ [.doneWrite 0] }) ∧
    (s.eng.status = .completedFailed → s.eng.pending = .pendingRead → awaitedKind s.seq.state = some .read →
      ∃ d, exec .poll s =
        exec (decodeCW12 (completionWord s.seq.state.code true d))
          { s with eng := { s.eng with status := .idle, pending := .none },
                   emits := s.emits ++ [.doneRead 1 d], freeIdx := s.freeIdx + 1 }) ∧
    (s.eng.status = .completedFailed → s.eng.pending = .pendingWrite → awaitedKind s.seq.state = some .write →
      exec .poll s =
        exec (decodeCW12 (completionWord s.seq.state.code true 0))
          { s with eng := { s.eng with status := .idle, pending := .none },
                   emits := s.emits ++ [.doneWrite 1] })

/-- R126, R142 on the model's remaining forms, states no run reaches (log entry 15): a completed status with nothing
pending is taken without a `Done`; in TOP a completion of the wrong kind for a started SEQ, or for a stopped SEQ, is
refused. -/
def Obligations.PollInUnreachedStates : Prop :=
  ∀ s : State, s.eng.status = .completedOk ∨ s.eng.status = .completedFailed →
    (s.eng.pending = .none → exec .poll s = .next { s with eng := { s.eng with status := .idle, pending := .none } }) ∧
    (s.conf = .top → s.eng.pending ≠ .none → s.seq.state = .stopped → exec .poll s = .refused .badState) ∧
    (s.conf = .top → s.eng.pending = .pendingRead → awaitedKind s.seq.state = some .write →
      exec .poll s = .refused .kindDisagrees) ∧
    (s.conf = .top → s.eng.pending = .pendingWrite → awaitedKind s.seq.state = some .read →
      exec .poll s = .refused .kindDisagrees)

/-! ### START and the command bytes -/

/-- R141: START, word 0x100, from Stopped clears the flag, enters AwaitModelWrite and emits `Cmd(BEGIN_WRITE, 0x16)`, which
in TOP arms the write; in a state of R36 ENG is then idle. In any other state it is refused. -/
def Obligations.StartIssuesTheModelQuery : Prop :=
  decodeEV11 0x100 = .ok .start ∧
  (∀ s : State, s.conf ≠ .top → s.seq.state = .stopped →
    exec .start s = .next { s with seq := { state := .awaitModelWrite, kpPending := false },
                                   emits := s.emits ++ [.cmdWrite 0x16] }) ∧
  (∀ s : State, s.conf = .top → s.seq.state = .stopped → s.eng.status = .idle →
    exec .start s = .next { s with seq := { state := .awaitModelWrite, kpPending := false },
                                   emits := s.emits ++ [.cmdWrite 0x16], eng := engArmedWrite 0x16 }) ∧
  (∀ s : State, StateInv s → s.conf = .top → s.seq.state = .stopped → s.eng.status = .idle) ∧
  (∀ s : State, s.seq.state ≠ .stopped → exec .start s = .refused .alreadyStarted)

/-- R153 to R155 as the model reads a command row (log entry 9): SEQ issues the byte and is in the state in flight, in
TOP from an idle ENG the write is armed, and the client of ENG alone hands it to ENG. -/
def Obligations.CommandRowsIssueTheirByte : Prop :=
  decodeCMD8 0x16 = .ok .queryModel ∧ decodeCMD8 0x10 = .ok .reqTransition ∧ decodeCMD8 0x14 = .ok .reqInstant ∧
  (∀ s : State, s.conf = .engAlone → s.eng.status = .idle →
    exec .queryModel s = .next { s with eng := engArmedWrite 0x16 } ∧
    exec .reqTransition s = .next { s with eng := engArmedWrite 0x10 } ∧
    exec .reqInstant s = .next { s with eng := engArmedWrite 0x14 }) ∧
  (∀ s : State, s.conf = .seqAlone →
    exec .queryModel s = .next { s with seq := { s.seq with state := .awaitModelWrite },
                                        emits := s.emits ++ [.cmdWrite 0x16] } ∧
    (s.seq.state = .awaitModelRead ∨ s.seq.state = .awaitTransitionRead ∨ s.seq.state = .awaitInstantRead →
      exec .reqTransition s = .next { s with seq := { s.seq with state := .awaitTransitionWrite },
                                             emits := s.emits ++ [.cmdWrite 0x10] }) ∧
    (s.seq.state = .awaitTransitionRead →
      exec .reqInstant s = .next { s with seq := { s.seq with state := .awaitInstantWrite },
                                          emits := s.emits ++ [.cmdWrite 0x14] })) ∧
  (∀ s : State, s.conf = .top → s.eng.status = .idle →
    exec .queryModel s = .next { s with seq := { s.seq with state := .awaitModelWrite },
                                        emits := s.emits ++ [.cmdWrite 0x16], eng := engArmedWrite 0x16 } ∧
    (s.seq.state = .awaitModelRead ∨ s.seq.state = .awaitTransitionRead ∨ s.seq.state = .awaitInstantRead →
      exec .reqTransition s = .next { s with seq := { s.seq with state := .awaitTransitionWrite },
                                             emits := s.emits ++ [.cmdWrite 0x10], eng := engArmedWrite 0x10 }) ∧
    (s.seq.state = .awaitTransitionRead →
      exec .reqInstant s = .next { s with seq := { s.seq with state := .awaitInstantWrite },
                                          emits := s.emits ++ [.cmdWrite 0x14], eng := engArmedWrite 0x14 }))

/-! ### The rows of the completion map: SEQ not composed with ENG, and TOP with ENG idle -/

/-- R143, R145, R149: a written command is followed by the read of its reply. -/
def Obligations.WriteRowsArmTheReply : Prop :=
  ∀ (s : State) (data : Byte) (a b : SeqState) (i : Instr),
    (a, b, i) ∈ [(.awaitModelWrite, .awaitModelRead, .tModelW data),
                 (.awaitTransitionWrite, .awaitTransitionRead, .tTransW data),
                 (.awaitInstantWrite, .awaitInstantRead, .tInstW data)] →
    s.seq.state = a →
    decodeCW12 (completionWord a.code false data) = i ∧
    (s.conf ≠ .top →
      exec i s = .next { s with seq := { s.seq with state := b }, emits := s.emits ++ [.cmdRead] }) ∧
    (s.conf = .top → s.eng.status = .idle →
      exec i s = .next { s with seq := { s.seq with state := b }, emits := s.emits ++ [.cmdRead],
                                eng := engArmedRead })

/-- R144: the model byte, whatever it is, is discarded and the transition request issued; no `Key`. -/
def Obligations.ModelByteIsDiscarded : Prop :=
  ∀ (s : State) (data : Byte), s.seq.state = .awaitModelRead →
    decodeCW12 (completionWord 2 false data) = .tModelR data ∧
    (s.conf ≠ .top →
      exec (.tModelR data) s = .next { s with seq := { s.seq with state := .awaitTransitionWrite },
                                              emits := s.emits ++ [.cmdWrite 0x10] }) ∧
    (s.conf = .top → s.eng.status = .idle →
      exec (.tModelR data) s = .next { s with seq := { s.seq with state := .awaitTransitionWrite },
                                              emits := s.emits ++ [.cmdWrite 0x10], eng := engArmedWrite 0x10 })

/-- R146: the sentinel 0x79 of a transition read sets the keypad flag and issues the instant request; no `Key`; its key-up
twin 0xf9 does not take the rule. -/
def Obligations.KeypadSentinelAsksForTheInstant : Prop :=
  decodeCW12 0x879 = .tTransRKeypad ∧ decodeCW12 0x8f9 = .tTransRKey 0xf9 ∧
  ∀ s : State, s.seq.state = .awaitTransitionRead →
    (s.conf ≠ .top →
      exec .tTransRKeypad s = .next { s with seq := { state := .awaitInstantWrite, kpPending := true },
                                             emits := s.emits ++ [.cmdWrite 0x14] }) ∧
    (s.conf = .top → s.eng.status = .idle →
      exec .tTransRKeypad s = .next { s with seq := { state := .awaitInstantWrite, kpPending := true },
                                             emits := s.emits ++ [.cmdWrite 0x14], eng := engArmedWrite 0x14 })

/-- R147: the sentinel 0x7b of a transition read issues another transition request; no `Key`; 0xfb does not take the
rule. -/
def Obligations.NullSentinelAsksAgain : Prop :=
  decodeCW12 0x87b = .tTransRNull ∧ decodeCW12 0x8fb = .tTransRKey 0xfb ∧
  ∀ s : State, s.seq.state = .awaitTransitionRead →
    (s.conf ≠ .top →
      exec .tTransRNull s = .next { s with seq := { s.seq with state := .awaitTransitionWrite },
                                           emits := s.emits ++ [.cmdWrite 0x10] }) ∧
    (s.conf = .top → s.eng.status = .idle →
      exec .tTransRNull s = .next { s with seq := { s.seq with state := .awaitTransitionWrite },
                                           emits := s.emits ++ [.cmdWrite 0x10], eng := engArmedWrite 0x10 })

/-- R148: any of the 254 other bytes of a transition read is handed on as a `Key` with the keypad flag, before the next
transition request. -/
def Obligations.TransitionByteIsHandedOn : Prop :=
  ∀ (s : State) (data : Byte), s.seq.state = .awaitTransitionRead → data ≠ 0x79 → data ≠ 0x7b →
    decodeCW12 (completionWord 4 false data) = .tTransRKey data ∧
    (s.conf ≠ .top →
      exec (.tTransRKey data) s = .next { s with seq := { s.seq with state := .awaitTransitionWrite },
                                                 emits := s.emits ++ [.key data s.seq.kpPending, .cmdWrite 0x10] }) ∧
    (s.conf = .top → s.eng.status = .idle →
      exec (.tTransRKey data) s = .next { s with seq := { s.seq with state := .awaitTransitionWrite },
                                                 emits := s.emits ++ [.key data s.seq.kpPending, .cmdWrite 0x10],
                                                 eng := engArmedWrite 0x10 })

/-- R150: any byte of an instant read, the sentinels included, is handed on as a `Key` with the flag's value, then the flag
is cleared and transition requests resume. -/
def Obligations.InstantByteIsHandedOnAndTheFlagCleared : Prop :=
  ∀ (s : State) (data : Byte), s.seq.state = .awaitInstantRead →
    decodeCW12 (completionWord 6 false data) = .tInstR data ∧
    (s.conf ≠ .top →
      exec (.tInstR data) s = .next { s with seq := { state := .awaitTransitionWrite, kpPending := false },
                                             emits := s.emits ++ [.key data s.seq.kpPending, .cmdWrite 0x10] }) ∧
    (s.conf = .top → s.eng.status = .idle →
      exec (.tInstR data) s = .next { s with seq := { state := .awaitTransitionWrite, kpPending := false },
                                             emits := s.emits ++ [.key data s.seq.kpPending, .cmdWrite 0x10],
                                             eng := engArmedWrite 0x10 })

/-- The response classes (R156 to R160) as the model reads a response byte (log entry 10: a read that completed without
failure): in the state that classifies it, each has exactly the effect of the completion row that handles it. -/
def Obligations.ResponseClassesHaveTheEffectOfTheirRow : Prop :=
  ∀ s : State, (s.conf = .top → s.eng.status = .idle) →
    let armed (b : Byte) : Eng := if s.conf = .top then engArmedWrite b else s.eng
    (∀ d : Byte, s.seq.state = .awaitModelRead →
      decodeRSP8 .awaitModelRead d = .ok (.rspModel d) ∧
      exec (.rspModel d) s = .next { s with seq := { s.seq with state := .awaitTransitionWrite },
                                            emits := s.emits ++ [.cmdWrite 0x10], eng := armed 0x10 }) ∧
    (s.seq.state = .awaitTransitionRead →
      decodeRSP8 .awaitTransitionRead 0x7b = .ok .rspNull ∧
      exec .rspNull s = .next { s with seq := { s.seq with state := .awaitTransitionWrite },
                                       emits := s.emits ++ [.cmdWrite 0x10], eng := armed 0x10 } ∧
      decodeRSP8 .awaitTransitionRead 0x79 = .ok .rspKeypadPending ∧
      exec .rspKeypadPending s = .next { s with seq := { state := .awaitInstantWrite, kpPending := true },
                                                emits := s.emits ++ [.cmdWrite 0x14], eng := armed 0x14 }) ∧
    (∀ (up : Bool) (scancode : BitVec 7), s.seq.state = .awaitTransitionRead →
      responseByte up scancode ≠ 0x79 → responseByte up scancode ≠ 0x7b →
      decodeRSP8 .awaitTransitionRead (responseByte up scancode) = .ok (.rspTransition up scancode) ∧
      exec (.rspTransition up scancode) s =
        .next { s with seq := { s.seq with state := .awaitTransitionWrite },
                       emits := s.emits ++ [.key (responseByte up scancode) s.seq.kpPending, .cmdWrite 0x10],
                       eng := armed 0x10 }) ∧
    (∀ (up : Bool) (scancode : BitVec 7), s.seq.state = .awaitInstantRead →
      decodeRSP8 .awaitInstantRead (responseByte up scancode) = .ok (.rspInstant up scancode) ∧
      exec (.rspInstant up scancode) s =
        .next { s with seq := { state := .awaitTransitionWrite, kpPending := false },
                       emits := s.emits ++ [.key (responseByte up scancode) s.seq.kpPending, .cmdWrite 0x10],
                       eng := armed 0x10 })

/-- R151: a failed transfer, in each of the six states and whatever the byte, clears the flag and restarts with the model
query; no `Key`. -/
def Obligations.AnyFailureRestarts : Prop :=
  ∀ (s : State) (data : Byte), s.seq.state ≠ .stopped →
    decodeCW12 (completionWord s.seq.state.code true data) = .tFail s.seq.state data ∧
    (s.conf ≠ .top →
      exec (.tFail s.seq.state data) s = .next { s with seq := { state := .awaitModelWrite, kpPending := false },
                                                        emits := s.emits ++ [.cmdWrite 0x16] }) ∧
    (s.conf = .top → s.eng.status = .idle →
      exec (.tFail s.seq.state data) s = .next { s with seq := { state := .awaitModelWrite, kpPending := false },
                                                        emits := s.emits ++ [.cmdWrite 0x16],
                                                        eng := engArmedWrite 0x16 })

/-- R161: a completion word with state code 0 or 7 is T_BAD_STATE and is refused in every state; after reset TOP delivers
none before START. -/
def Obligations.BadStateCompletionsAreRefused : Prop :=
  ∀ (s : State) (fail : Bool) (data : Byte),
    decodeCW12 (completionWord 0 fail data) = .tBadStateStopped fail data ∧
    decodeCW12 (completionWord 7 fail data) = .tBadStateCode7 fail data ∧
    exec (.tBadStateStopped fail data) s = .refused .badState ∧
    exec (.tBadStateCode7 fail data) s = .refused .badState ∧
    (StateInv s → s.conf = .top → s.seq.state = .stopped → exec .poll s = .next s)

/-- The model's choice (log entry 11): a completion row or a response class out of its state is refused. -/
def Obligations.RowsOutOfTheirStateAreRefused : Prop :=
  ∀ (s : State) (data : Byte) (up : Bool) (scancode : BitVec 7),
    (s.seq.state ≠ .awaitModelWrite → exec (.tModelW data) s = .refused .preconditionFails) ∧
    (s.seq.state ≠ .awaitModelRead → exec (.tModelR data) s = .refused .preconditionFails ∧
      exec (.rspModel data) s = .refused .preconditionFails) ∧
    (s.seq.state ≠ .awaitTransitionWrite → exec (.tTransW data) s = .refused .preconditionFails) ∧
    (s.seq.state ≠ .awaitTransitionRead →
      exec .tTransRKeypad s = .refused .preconditionFails ∧ exec .tTransRNull s = .refused .preconditionFails ∧
      exec (.tTransRKey data) s = .refused .preconditionFails ∧ exec .rspNull s = .refused .preconditionFails ∧
      exec .rspKeypadPending s = .refused .preconditionFails ∧
      exec (.rspTransition up scancode) s = .refused .preconditionFails) ∧
    (s.seq.state ≠ .awaitInstantWrite → exec (.tInstW data) s = .refused .preconditionFails) ∧
    (s.seq.state ≠ .awaitInstantRead → exec (.tInstR data) s = .refused .preconditionFails ∧
      exec (.rspInstant up scancode) s = .refused .preconditionFails) ∧
    (∀ st, st ≠ .stopped → s.seq.state ≠ st → exec (.tFail st data) s = .refused .preconditionFails)

/-- R142 at the port of SEQ alone (the model's port, log entry 2): `Done(kind, result, data)` of the wrong kind for a
started SEQ is refused; otherwise exactly the row of the word `{SEQ.state, result ≠ 0, data}` runs, with data 0 for a
write. -/
def Obligations.DoneSelectsOneRow : Prop :=
  ∀ (s : State) (kind : Dir) (result data : Byte) (rest : List PortItem),
    s.conf = .seqAlone → s.port = .done kind result data :: rest →
    (s.seq.state ≠ .stopped → awaitedKind s.seq.state ≠ some kind → step s = .refused .kindDisagrees) ∧
    (s.seq.state = .stopped ∨ awaitedKind s.seq.state = some kind →
      step s =
        exec (decodeCW12 (completionWord s.seq.state.code (decide (result ≠ 0)) (if kind = .read then data else 0)))
          { s with port := rest })

/-! ### Encodings -/

/-- Words written out from the tables of R73, R75, R86 and R89 decode to what they stand for. -/
def Obligations.SampleWordsDecode : Prop :=
  decode .cmd8 0b000000010110 = .ok .queryModel ∧
  decode (.rsp8 .awaitTransitionRead) 0b000011000001 = .ok (.rspTransition true 0b1000001) ∧
  decode (.rsp8 .awaitInstantRead) 0b000001111011 = .ok (.rspInstant false 0b1111011) ∧
  decode .ev11 0b010000000001 = .ok (.fall true) ∧
  decode .ev11 0b011100010110 = .ok (.beginWrite 0b00010110) ∧
  decode .cw12 0b100001111001 = .ok .tTransRKeypad ∧
  decode .cw12 0b110101000000 = .ok (.tFail .awaitInstantRead 0b01000000)

/-- Decode of encode is the instruction, for every well-formed instruction of all four formats. -/
def Obligations.DecodeOfEncodeIsTheInstruction : Prop :=
  ∀ i : Instr, i.wellFormed = true → decode (encode i).format (encode i).word = .ok i

/-- Every word that decodes is the encoding of a well-formed instruction: no word has two readings, no instruction two
words. -/
def Obligations.EncodeOfDecodeIsTheWord : Prop :=
  ∀ (f : Format) (w : BitVec 12) (i : Instr), decode f w = .ok i →
    i.wellFormed = true ∧ encode i = { format := f, word := w }

/-- R89: the completion map, its rows in order, over all 4096 words. -/
def Obligations.CompletionMapIsTheTable : Prop :=
  ∀ w : CompletionWord,
    let st : BitVec 3 := w.extractLsb' 9 3
    let fail := w.getLsbD 8
    let data : Byte := w.extractLsb' 0 8
    (st = 0 → decodeCW12 w = .tBadStateStopped fail data) ∧
    (st = 7 → decodeCW12 w = .tBadStateCode7 fail data) ∧
    (st ≠ 0 → st ≠ 7 → fail = true → ∃ q, q.code = st ∧ decodeCW12 w = .tFail q data) ∧
    (st = 1 → fail = false → decodeCW12 w = .tModelW data) ∧
    (st = 2 → fail = false → decodeCW12 w = .tModelR data) ∧
    (st = 3 → fail = false → decodeCW12 w = .tTransW data) ∧
    (st = 4 → fail = false → data = 0b01111001 → decodeCW12 w = .tTransRKeypad) ∧
    (st = 4 → fail = false → data = 0b01111011 → decodeCW12 w = .tTransRNull) ∧
    (st = 4 → fail = false → data ≠ 0b01111001 → data ≠ 0b01111011 → decodeCW12 w = .tTransRKey data) ∧
    (st = 5 → fail = false → decodeCW12 w = .tInstW data) ∧
    (st = 6 → fail = false → decodeCW12 w = .tInstR data)

/-- R86, R87: an event word is refused exactly when it is reserved. -/
def Obligations.ReservedEventWordsAreRefused : Prop :=
  ∀ w : EventWord,
    let kind : BitVec 3 := w.extractLsb' 8 3
    let operand : Byte := w.extractLsb' 0 8
    (decodeEV11 w = .error .reservedEventWord ↔
      (kind ∈ [(0 : BitVec 3), 1, 2, 3, 5, 6] ∧ operand ≠ 0) ∨ (kind = 4 ∧ operand.extractLsb' 1 7 ≠ 0)) ∧
    (∀ e, decodeEV11 w = .error e → e = .reservedEventWord)

/-! ### The step -/

/-- A step runs the decoded instruction: the oldest input, if it decodes and the configuration accepts it, is run by `exec`
on the state without it; if it decodes to nothing or is not accepted, the step is refused. With nothing presented
nothing changes (the model's choice, log entry 2). -/
def Obligations.StepRunsTheDecodedInstruction : Prop :=
  ∀ (s : State) (item : PortItem) (rest : List PortItem),
    (s.port = [] → step s = .next s) ∧
    (s.port = item :: rest →
      (∀ i, decodeItem s.seq.state item = .ok i → acceptsInput s.conf item i = true → step s = exec i { s with port := rest }) ∧
      (∀ i, decodeItem s.seq.state item = .ok i → acceptsInput s.conf item i = false → step s = .refused .notAccepted) ∧
      (∀ r, decodeItem s.seq.state item = .error r → step s = .refused r))

/-- R87, the acceptance at the port in all three configurations. On every event word that is not reserved: TOP refuses
kinds 6 and 7, ENG alone refuses START, SEQ alone refuses every one, and nothing else is refused. Command bytes are
accepted by ENG alone only (log entry 9). Completions (R88), response bytes (log entry 10), and the START and RESET that
are no event words (the model's reading of R140 and R210, log entry 8) are accepted by SEQ alone only, and there START
and RESET run. -/
def Obligations.PortsAcceptTheInputsOfTheirConfiguration : Prop :=
  (∀ (w : EventWord) (i : Instr), decodeEV11 w = .ok i →
    let kind : BitVec 3 := w.extractLsb' 8 3
    (acceptsInput .top (.event w) i = true ↔ kind ≠ 6 ∧ kind ≠ 7) ∧
    (acceptsInput .engAlone (.event w) i = true ↔ kind ≠ 1) ∧
    acceptsInput .seqAlone (.event w) i = false) ∧
  (∀ (c : Configuration) (st : SeqState) (b : Byte) (i : Instr), decodeItem st (.command b) = .ok i →
    (acceptsInput c (.command b) i = true ↔ c = .engAlone)) ∧
  (∀ (c : Configuration) (st : SeqState) (item : PortItem) (i : Instr), decodeItem st item = .ok i →
    (∀ w, item ≠ .event w) → (∀ b, item ≠ .command b) → (acceptsInput c item i = true ↔ c = .seqAlone)) ∧
  (∀ (s : State) (rest : List PortItem), s.conf = .seqAlone →
    (s.port = .startSeq :: rest → step s = exec .start { s with port := rest }) ∧
    (s.port = .resetSeq :: rest → step s = exec .reset { s with port := rest }) ∧
    (∀ w, s.port = .event w :: rest → ∃ r, step s = .refused r))

/-! ### Rules over all instructions -/

/-- The invariant of R31, R35 and R36 is kept by every step. -/
def Obligations.EveryStepKeepsTheInvariant : Prop :=
  ∀ s t : State, StateInv s → step s = .next t → StateInv t

/-- The state after reset has the invariant. -/
def Obligations.ResetHasTheInvariant : Prop := StateInv State.reset

/-- R35: the ENG invariants hold after reset and are preserved by every instruction, in every configuration (a BEGIN
unless ENG is idle is refused). -/
def Obligations.EngineInvariantsArePreserved : Prop :=
  EngInv Config.timeoutTicks State.reset.eng ∧
  ∀ (i : Instr) (s t : State), EngInv Config.timeoutTicks s.eng → exec i s = .next t →
    EngInv Config.timeoutTicks t.eng

/-- R36 T5, R101: TOP in a state of the invariant, with an environment that keeps its duties, never stops: every step
answers a next state, again of the invariant. -/
def Obligations.TopNeverStops : Prop :=
  ∀ s : State, StateInv s → s.conf = .top → TopDuty s → ∃ t, step s = .next t ∧ StateInv t ∧ t.conf = .top

/-- R101: FALL, RISE and TICK answer a next state in every state and POLL in every state of ENG (in TOP, of the invariant),
BEGIN_READ and BEGIN_WRITE exactly when ENG is idle; none of them writes SEQ, except POLL through the `Done` it emits. -/
def Obligations.EngineEventsAreTotal : Prop :=
  (∀ (s : State) (i : Instr), isEdge i = true ∨ i = .tick → ∃ t, exec i s = .next t ∧ t.seq = s.seq) ∧
  (∀ s : State, s.conf ≠ .top → ∃ t, exec .poll s = .next t ∧ t.seq = s.seq) ∧
  (∀ s : State, StateInv s → s.conf = .top →
    ∃ t, exec .poll s = .next t ∧ (t.seq ≠ s.seq → ∃ x ∈ t.emits.drop s.emits.length, isDone x = true)) ∧
  (∀ (s : State) (i : Instr), i = .beginRead ∨ (∃ b, i = .beginWrite b) →
    (s.eng.status = .idle → ∃ t, exec i s = .next t ∧ t.seq = s.seq) ∧
    (s.eng.status ≠ .idle → exec i s = .refused .transferNotIdle))

/-- R24: `ENG.status` makes the listed transitions and no others: to in progress by a BEGIN (in TOP also the BEGIN that an
issued `Cmd` runs in the same step, and for ENG alone the one that a command byte is, log entry 9), to completed by RISE
and TICK, to idle by POLL, and to idle by RESET (R210). -/
def Obligations.StatusMakesOnlyTheListedTransitions : Prop :=
  ∀ (i : Instr) (s t : State), exec i s = .next t → statusEdge s.conf i s.eng.status t.eng.status = true

/-- R25: the activity counter is zeroed by BEGIN (and RESET), counted by TICK, and changed by nothing else; a clock edge in
particular does not reset it. -/
def Obligations.OnlyBeginAndTickChangeTheCounter : Prop :=
  ∀ (i : Instr) (s t : State), exec i s = .next t → t.eng.idleTicks ≠ s.eng.idleTicks →
    (i = .tick ∧ s.eng.status = .inProgress ∧ t.eng.idleTicks = s.eng.idleTicks + 1) ∨
    (t.eng.idleTicks = 0 ∧ (t.eng = engArmedRead ∨ (∃ b, t.eng = engArmedWrite b) ∨ i = .reset)) ∧
    isEdge i = false

/-- R63, R188: the edge events run no completion: they emit nothing, change no field of SEQ and never `ENG.pending`,
`ENG.dir`, `ENG.idle_ticks` or `ENG.rearm_wait`; they always answer a next state. -/
def Obligations.EdgeEventsNeverRunACallback : Prop :=
  ∀ (i : Instr) (s : State), contextOf i = .interrupt →
    ∃ t, exec i s = .next t ∧ t.emits = s.emits ∧ t.seq = s.seq ∧ t.eng.pending = s.eng.pending ∧
      t.eng.dir = s.eng.dir ∧ t.eng.idleTicks = s.eng.idleTicks ∧ t.eng.rearmWait = s.eng.rearmWait ∧
      t.conf = s.conf ∧ t.port = s.port ∧ t.freeIdx = s.freeIdx

/-- R129: a `Done` is emitted by a POLL that finds a completion, exactly one, and by nothing else. -/
def Obligations.OneDonePerCompletion : Prop :=
  ∀ (i : Instr) (s t : State), exec i s = .next t →
    ∃ new, t.emits = s.emits ++ new ∧
      new.countP isDone =
        if i = .poll ∧ (s.eng.status = .completedOk ∨ s.eng.status = .completedFailed) ∧ s.eng.pending ≠ .none then 1
        else 0

/-- R152: the `Key` events of a POLL in TOP: the byte of a successful transition read that is no sentinel, or of a
successful instant read, with the flag; none for anything else. -/
def Obligations.KeysOfAPollInTop : Prop :=
  ∀ s t : State, s.conf = .top → exec .poll s = .next t →
    ∃ new, t.emits = s.emits ++ new ∧
      new.filter isKey =
        if s.eng.status = .completedOk ∧ s.eng.pending = .pendingRead ∧
            ((s.seq.state = .awaitTransitionRead ∧ s.eng.buf ≠ 0x79 ∧ s.eng.buf ≠ 0x7b) ∨
              s.seq.state = .awaitInstantRead)
        then [.key s.eng.buf s.seq.kpPending] else []

/-- R162: the state graph of SEQ is complete: every change of `SEQ.state` is one of its edges, and no edge leads to Stopped
but RESET. -/
def Obligations.SequencerFollowsTheStateGraph : Prop :=
  ∀ (i : Instr) (s t : State), exec i s = .next t →
    t.seq.state = s.seq.state ∨ seqEdge s.seq.state t.seq.state = true ∨ (i = .reset ∧ t.seq.state = .stopped)

/-- R163: every change of `SEQ.state` but RESET's emits exactly one `Cmd`, the one that belongs to the state entered, and it
is the last emit. -/
def Obligations.EveryChangeOfStateEmitsItsCmd : Prop :=
  ∀ (i : Instr) (s t : State), exec i s = .next t → i ≠ .reset → t.seq.state ≠ s.seq.state →
    ∃ new cmd, t.emits = s.emits ++ new ++ [cmd] ∧ enteringCmd t.seq.state = some cmd ∧ new.filter isCmd = []

/-- R164: SEQ's next state and outputs are a function of (`SEQ.state`, `fail`, `data`): two sequencers used alone, with the
flag as R31 says it is, in the same state, given completions that agree in kind, failure and byte, end in the same
state of SEQ and add the same emits, whatever ENG holds and whatever was emitted before. -/
def Obligations.SequencerDependsOnTheCompletionOnly : Prop :=
  ∀ (s u t v : State) (kind : Dir) (r r' data : Byte) (ps pu : List PortItem),
    s.conf = .seqAlone → u.conf = .seqAlone → s.seq.state = u.seq.state →
    s.seq.kpPending = inInstant s.seq.state → u.seq.kpPending = inInstant u.seq.state → (r = 0 ↔ r' = 0) →
    s.port = .done kind r data :: ps → u.port = .done kind r' data :: pu →
    step s = .next t → step u = .next v →
    t.seq = v.seq ∧ ∃ new, t.emits = s.emits ++ new ∧ v.emits = u.emits ++ new

/-- R130: once a transfer has completed, in either way, TICK, FALL and RISE change nothing, in any number and order. -/
def Obligations.TicksAndEdgesChangeNothingOfAFinishedTransfer : Prop :=
  ∀ (s : State) (trace : List Instr), s.eng.status = .completedOk ∨ s.eng.status = .completedFailed →
    (∀ i ∈ trace, i = .tick ∨ isEdge i = true) → runTrace trace s = .next s

/-- The data line (R58, R61, R212): in a state of the invariant the block pulls it only during a write in progress, and
then every FALL the environment may raise carries 0. -/
def Obligations.TheLineIsPulledOnlyDuringAWrite : Prop :=
  ∀ s : State, StateInv s → s.eng.dataDrive = .low →
    s.eng.status = .inProgress ∧ s.eng.dir = .write ∧ ∀ d, FallDuty s d → d = false

/-- No step changes which of the three compositions that R87 and R33 name is running. That it is constant is the model's
choice (the field `conf`, DESIGN CHOICE, log entry 1): no rule of the spec says so. -/
def Obligations.NoStepChangesTheConfiguration : Prop :=
  ∀ s t : State, step s = .next t → t.conf = s.conf

/-! ### Whole transfers and exchanges -/

/-- R131, the write round trip. From idle, `BEGIN_WRITE b` and then eight pulses of the peer, which does not pull the data
line, with at most TIMEOUT_TICKS TICKs and any POLLs between: the line level after the k-th falling edge is bit 8 - k of
b, the last RISE completes the transfer, and the next POLL delivers `Done(write, 0)` (in TOP followed by SEQ's
reaction). -/
def Obligations.WriteRoundTrip : Prop :=
  ∀ (s : State) (b : Byte) (ds : List Bool) (body : List Instr), s.eng.status = .idle → ds.length = 8 →
    Interleaves (body ++ [.rise]) (pulses ds) → ticksIn body ≤ Config.timeoutTicks →
    (∀ p d q, body = p ++ .fall d :: q →
      ∃ u, runTrace (.beginWrite b :: (p ++ [.fall d])) s = .next u ∧
        lineLevel u.eng.dataDrive false = bitOf b (7 - fallsIn p)) ∧
    ∃ t, runTrace (.beginWrite b :: (body ++ [.rise])) s = .next t ∧ t.eng.status = .completedOk ∧
      t.eng.dataDrive = .released ∧
      (s.conf ≠ .top → ∃ u, exec .poll t = .next u ∧ u.eng.status = .idle ∧ u.emits = s.emits ++ [.doneWrite 0]) ∧
      ∀ u, exec .poll t = .next u → ∃ more, u.emits = s.emits ++ .doneWrite 0 :: more

/-- R132, the read round trip. From idle, `BEGIN_READ`, one TICK, and then eight pulses with the levels v[7] to v[0], with
fewer than TIMEOUT_TICKS further TICKs and any POLLs between: the last RISE completes the transfer with `buf = v`, and
the next POLL delivers `Done(read, 0, v)` (in TOP followed by SEQ's reaction). -/
def Obligations.ReadRoundTrip : Prop :=
  ∀ (s : State) (v : Byte) (body : List Instr), s.eng.status = .idle →
    Interleaves (body ++ [.rise]) (macroRxByte v) → ticksIn body < Config.timeoutTicks →
    ∃ t, runTrace (.beginRead :: .tick :: (body ++ [.rise])) s = .next t ∧ t.eng.status = .completedOk ∧
      t.eng.buf = v ∧
      (s.conf ≠ .top → ∃ u, exec .poll t = .next u ∧ u.eng.status = .idle ∧ u.emits = s.emits ++ [.doneRead 0 v]) ∧
      ∀ u, exec .poll t = .next u → ∃ more, u.emits = s.emits ++ .doneRead 0 v :: more

/-- R111: after k falling edges of a re-armed read, the first k levels stand in bits 7 down to 8 - k of the buffer and the
low bits are still 0. -/
def Obligations.PartialReadFillsFromTheTop : Prop :=
  ∀ (s : State) (ds : List Bool), s.eng.status = .idle → ds.length ≤ 8 →
    ∃ t, runTrace (.beginRead :: .tick :: ds.map .fall) s = .next t ∧ t.eng.nbits = ds.length ∧
      ∀ j, j < 8 → bitOf t.eng.buf j = (ds[7 - j]?).getD false

/-- R141, R143, R144: TOP from START sends the model query, reads any model byte, discards it and asks for a transition. -/
def Obligations.StartUpReachesTheTransitionRequest : Prop :=
  ∀ (s : State) (level : Nat → Bool) (model : Byte), s.conf = .top → s.eng.status = .idle → s.seq.state = .stopped →
    runTrace (.start :: (macroWriteOk level ++ macroReadOk model)) s =
      .next { s with
        eng := engArmedWrite 0x10
        seq := { state := .awaitTransitionWrite, kpPending := false }
        emits := s.emits ++ [.cmdWrite 0x16, .doneWrite 0, .cmdRead, .doneRead 0 model, .cmdWrite 0x10] }

/-- R145, R147, R148 over a whole exchange of TOP: from the armed transition request, the request and any reply other than
0x79 lead back to the same state, with one `Key` for the byte, or none for the null 0x7b. -/
def Obligations.TransitionExchangeReturns : Prop :=
  ∀ (s : State) (level : Nat → Bool) (v : Byte), s.conf = .top → s.eng = engArmedWrite 0x10 →
    s.seq = { state := .awaitTransitionWrite, kpPending := false } → v ≠ 0x79 →
    runTrace (macroWriteOk level ++ macroReadOk v) s =
      .next { s with
        emits := s.emits ++ [.doneWrite 0, .cmdRead, .doneRead 0 v] ++
          (if v = 0x7b then [] else [.key v false]) ++ [.cmdWrite 0x10] }

/-- R146, R149, R150 over the two exchanges of a keypad key in TOP: the sentinel 0x79, then any byte, give exactly one `Key`
with keypad = 1 and lead back to the same state, the flag clear. -/
def Obligations.KeypadExchangeRoutesOneByte : Prop :=
  ∀ (s : State) (l₁ l₂ : Nat → Bool) (v : Byte), s.conf = .top → s.eng = engArmedWrite 0x10 →
    s.seq = { state := .awaitTransitionWrite, kpPending := false } →
    runTrace (macroWriteOk l₁ ++ macroReadOk 0x79 ++ macroWriteOk l₂ ++ macroReadOk v) s =
      .next { s with
        emits := s.emits ++ [.doneWrite 0, .cmdRead, .doneRead 0 0x79, .cmdWrite 0x14, .doneWrite 0, .cmdRead,
                             .doneRead 0 v, .key v true, .cmdWrite 0x10] }

/-- R194, R195, R231: in TOP a transfer just armed that the peer never clocks is failed and the protocol restarted after
TIMEOUT_TICKS + 1 tick periods: one `Done` with a non-zero result, then the model query, and no `Key`. -/
def Obligations.SilentPeerMeansRestart : Prop :=
  ∀ s : State, StateInv s → s.conf = .top → s.eng.status = .inProgress → s.eng.idleTicks = 0 →
    ∃ t, runTrace macroTimeout s = .next t ∧ t.eng = engArmedWrite 0x16 ∧
      t.seq = { state := .awaitModelWrite, kpPending := false } ∧
      ((s.eng.pending = .pendingWrite ∧ t.emits = s.emits ++ [.doneWrite 1, .cmdWrite 0x16]) ∨
        (s.eng.pending = .pendingRead ∧ ∃ d, t.emits = s.emits ++ [.doneRead 1 d, .cmdWrite 0x16]))
end

