-- ==== Sys2Proof/Laws/Decode.lean ====
section
/-! SUPPORT. Small lemmas about the encodings. -/

namespace Sys2Proof

/-- The code of a state leads back to it (R30). -/
@[simp] theorem SeqState.ofCode_code (st : SeqState) : SeqState.ofCode st.code = some st := by
  cases st <;> rfl

/-- The state field of a completion word (R88). -/
@[simp] theorem completionWord_state (st : BitVec 3) (fail : Bool) (data : Byte) :
    (completionWord st fail data).extractLsb' 9 3 = st := by
  revert st fail data; decide

/-- The fail bit of a completion word (R88). -/
theorem completionWord_fail (st : BitVec 3) (fail : Bool) (data : Byte) :
    (completionWord st fail data).getLsbD 8 = fail := by
  revert st fail data; decide

/-- The data field of a completion word (R88). -/
@[simp] theorem completionWord_data (st : BitVec 3) (fail : Bool) (data : Byte) :
    (completionWord st fail data).extractLsb' 0 8 = data := by
  revert st fail data; decide

/-- The packed word selects the same row as its three fields (R142). -/
theorem decodeCW12_completionWord (st : BitVec 3) (fail : Bool) (data : Byte) :
    decodeCW12 (completionWord st fail data) = completionRow (SeqState.ofCode st) fail data := by
  rw [decodeCW12, completionWord_state, completionWord_fail, completionWord_data]

/-- The operand field of an event word (R85). -/
@[simp] theorem eventWord_operand (kind : BitVec 3) (operand : Byte) :
    (eventWord kind operand).extractLsb' 0 8 = operand := by
  revert kind operand; decide

/-- The kind field of an event word (R85). -/
@[simp] theorem eventWord_kind (kind : BitVec 3) (operand : Byte) :
    (eventWord kind operand).extractLsb' 8 3 = kind := by
  revert kind operand; decide

/-- The fields of a response byte (R72, R78). -/
@[simp] theorem upField_responseByte (up : Bool) (scancode : BitVec 7) :
    upField (responseByte up scancode) = up := by
  revert up scancode; decide

@[simp] theorem scancodeField_responseByte (up : Bool) (scancode : BitVec 7) :
    scancodeField (responseByte up scancode) = scancode := by
  revert up scancode; decide

/-- A byte is made of its two fields (R78). -/
@[simp] theorem responseByte_fields (b : Byte) : responseByte (upField b) (scancodeField b) = b := by
  revert b; decide

end Sys2Proof
end

