-- ==== Sys2Proof/Laws/State.lean ====
section
/-! SUPPORT. One lemma per field per update of State and of Eng, true by rfl: no later proof unfolds a record update. -/

namespace Sys2Proof.Machine

/-! ### State.setEng -/

@[simp] theorem State.setEng_eng (s : State) (e : Eng) : (s.setEng e).eng = e := rfl

@[simp] theorem State.setEng_seq (s : State) (e : Eng) : (s.setEng e).seq = s.seq := rfl

@[simp] theorem State.setEng_conf (s : State) (e : Eng) : (s.setEng e).conf = s.conf := rfl

@[simp] theorem State.setEng_port (s : State) (e : Eng) : (s.setEng e).port = s.port := rfl

@[simp] theorem State.setEng_emits (s : State) (e : Eng) : (s.setEng e).emits = s.emits := rfl

@[simp] theorem State.setEng_freeIdx (s : State) (e : Eng) : (s.setEng e).freeIdx = s.freeIdx := rfl

/-! ### State.goto -/

@[simp] theorem State.goto_eng (s : State) (st : SeqState) : (s.goto st).eng = s.eng := rfl

@[simp] theorem State.goto_seq (s : State) (st : SeqState) : (s.goto st).seq = { s.seq with state := st } := rfl

@[simp] theorem State.goto_conf (s : State) (st : SeqState) : (s.goto st).conf = s.conf := rfl

@[simp] theorem State.goto_port (s : State) (st : SeqState) : (s.goto st).port = s.port := rfl

@[simp] theorem State.goto_emits (s : State) (st : SeqState) : (s.goto st).emits = s.emits := rfl

@[simp] theorem State.goto_freeIdx (s : State) (st : SeqState) : (s.goto st).freeIdx = s.freeIdx := rfl

/-! ### State.setKp -/

@[simp] theorem State.setKp_eng (s : State) (kp : Bool) : (s.setKp kp).eng = s.eng := rfl

@[simp] theorem State.setKp_seq (s : State) (kp : Bool) : (s.setKp kp).seq = { s.seq with kpPending := kp } := rfl

@[simp] theorem State.setKp_conf (s : State) (kp : Bool) : (s.setKp kp).conf = s.conf := rfl

@[simp] theorem State.setKp_port (s : State) (kp : Bool) : (s.setKp kp).port = s.port := rfl

@[simp] theorem State.setKp_emits (s : State) (kp : Bool) : (s.setKp kp).emits = s.emits := rfl

@[simp] theorem State.setKp_freeIdx (s : State) (kp : Bool) : (s.setKp kp).freeIdx = s.freeIdx := rfl

/-! ### State.emit -/

@[simp] theorem State.emit_eng (s : State) (x : Emit) : (s.emit x).eng = s.eng := rfl

@[simp] theorem State.emit_seq (s : State) (x : Emit) : (s.emit x).seq = s.seq := rfl

@[simp] theorem State.emit_conf (s : State) (x : Emit) : (s.emit x).conf = s.conf := rfl

@[simp] theorem State.emit_port (s : State) (x : Emit) : (s.emit x).port = s.port := rfl

@[simp] theorem State.emit_emits (s : State) (x : Emit) : (s.emit x).emits = s.emits ++ [x] := rfl

@[simp] theorem State.emit_freeIdx (s : State) (x : Emit) : (s.emit x).freeIdx = s.freeIdx := rfl

/-! ### State.takeFree -/

@[simp] theorem State.takeFree_eng (s : State) : (s.takeFree).eng = s.eng := rfl

@[simp] theorem State.takeFree_seq (s : State) : (s.takeFree).seq = s.seq := rfl

@[simp] theorem State.takeFree_conf (s : State) : (s.takeFree).conf = s.conf := rfl

@[simp] theorem State.takeFree_port (s : State) : (s.takeFree).port = s.port := rfl

@[simp] theorem State.takeFree_emits (s : State) : (s.takeFree).emits = s.emits := rfl

@[simp] theorem State.takeFree_freeIdx (s : State) : (s.takeFree).freeIdx = s.freeIdx + 1 := rfl

/-! ### State.takeItem -/

@[simp] theorem State.takeItem_eng (s : State) : (s.takeItem).eng = s.eng := rfl

@[simp] theorem State.takeItem_seq (s : State) : (s.takeItem).seq = s.seq := rfl

@[simp] theorem State.takeItem_conf (s : State) : (s.takeItem).conf = s.conf := rfl

@[simp] theorem State.takeItem_port (s : State) : (s.takeItem).port = s.port.tail := rfl

@[simp] theorem State.takeItem_emits (s : State) : (s.takeItem).emits = s.emits := rfl

@[simp] theorem State.takeItem_freeIdx (s : State) : (s.takeItem).freeIdx = s.freeIdx := rfl

/-! ### State.present -/

@[simp] theorem State.present_eng (s : State) (c : Configuration) (item : PortItem) : (s.present c item).eng = s.eng := rfl

@[simp] theorem State.present_seq (s : State) (c : Configuration) (item : PortItem) : (s.present c item).seq = s.seq := rfl

@[simp] theorem State.present_conf (s : State) (c : Configuration) (item : PortItem) : (s.present c item).conf = c := rfl

@[simp] theorem State.present_port (s : State) (c : Configuration) (item : PortItem) : (s.present c item).port = item :: s.port := rfl

@[simp] theorem State.present_emits (s : State) (c : Configuration) (item : PortItem) : (s.present c item).emits = s.emits := rfl

@[simp] theorem State.present_freeIdx (s : State) (c : Configuration) (item : PortItem) : (s.present c item).freeIdx = s.freeIdx := rfl

/-! ### engArmedRead -/

@[simp] theorem engArmedRead_dir : (engArmedRead).dir = .read := rfl

@[simp] theorem engArmedRead_buf : (engArmedRead).buf = 0x00 := rfl

@[simp] theorem engArmedRead_nbits : (engArmedRead).nbits = 0 := rfl

@[simp] theorem engArmedRead_status : (engArmedRead).status = .inProgress := rfl

@[simp] theorem engArmedRead_idleTicks : (engArmedRead).idleTicks = 0 := rfl

@[simp] theorem engArmedRead_pending : (engArmedRead).pending = .pendingRead := rfl

@[simp] theorem engArmedRead_edgeSense : (engArmedRead).edgeSense = .off := rfl

@[simp] theorem engArmedRead_rearmWait : (engArmedRead).rearmWait = true := rfl

@[simp] theorem engArmedRead_dataDrive : (engArmedRead).dataDrive = .released := rfl

/-! ### engArmedWrite -/

@[simp] theorem engArmedWrite_dir (b : Byte) : (engArmedWrite b).dir = .write := rfl

@[simp] theorem engArmedWrite_buf (b : Byte) : (engArmedWrite b).buf = b := rfl

@[simp] theorem engArmedWrite_nbits (b : Byte) : (engArmedWrite b).nbits = 0 := rfl

@[simp] theorem engArmedWrite_status (b : Byte) : (engArmedWrite b).status = .inProgress := rfl

@[simp] theorem engArmedWrite_idleTicks (b : Byte) : (engArmedWrite b).idleTicks = 0 := rfl

@[simp] theorem engArmedWrite_pending (b : Byte) : (engArmedWrite b).pending = .pendingWrite := rfl

@[simp] theorem engArmedWrite_edgeSense (b : Byte) : (engArmedWrite b).edgeSense = .falling := rfl

@[simp] theorem engArmedWrite_rearmWait (b : Byte) : (engArmedWrite b).rearmWait = false := rfl

@[simp] theorem engArmedWrite_dataDrive (b : Byte) : (engArmedWrite b).dataDrive = .low := rfl

/-! ### raiseTransferTimeout -/

@[simp] theorem raiseTransferTimeout_dir (e : Eng) : (raiseTransferTimeout e).dir = e.dir := rfl

@[simp] theorem raiseTransferTimeout_buf (e : Eng) : (raiseTransferTimeout e).buf = e.buf := rfl

@[simp] theorem raiseTransferTimeout_nbits (e : Eng) : (raiseTransferTimeout e).nbits = e.nbits := rfl

@[simp] theorem raiseTransferTimeout_status (e : Eng) : (raiseTransferTimeout e).status = .completedFailed := rfl

@[simp] theorem raiseTransferTimeout_idleTicks (e : Eng) : (raiseTransferTimeout e).idleTicks = e.idleTicks := rfl

@[simp] theorem raiseTransferTimeout_pending (e : Eng) : (raiseTransferTimeout e).pending = e.pending := rfl

@[simp] theorem raiseTransferTimeout_edgeSense (e : Eng) : (raiseTransferTimeout e).edgeSense = .off := rfl

@[simp] theorem raiseTransferTimeout_rearmWait (e : Eng) : (raiseTransferTimeout e).rearmWait = false := rfl

@[simp] theorem raiseTransferTimeout_dataDrive (e : Eng) : (raiseTransferTimeout e).dataDrive = .released := rfl

/-! ### engTaken -/

@[simp] theorem engTaken_dir (e : Eng) : (engTaken e).dir = e.dir := rfl

@[simp] theorem engTaken_buf (e : Eng) : (engTaken e).buf = e.buf := rfl

@[simp] theorem engTaken_nbits (e : Eng) : (engTaken e).nbits = e.nbits := rfl

@[simp] theorem engTaken_status (e : Eng) : (engTaken e).status = .idle := rfl

@[simp] theorem engTaken_idleTicks (e : Eng) : (engTaken e).idleTicks = e.idleTicks := rfl

@[simp] theorem engTaken_pending (e : Eng) : (engTaken e).pending = .none := rfl

@[simp] theorem engTaken_edgeSense (e : Eng) : (engTaken e).edgeSense = e.edgeSense := rfl

@[simp] theorem engTaken_rearmWait (e : Eng) : (engTaken e).rearmWait = e.rearmWait := rfl

@[simp] theorem engTaken_dataDrive (e : Eng) : (engTaken e).dataDrive = e.dataDrive := rfl

/-! ### countTick -/

@[simp] theorem countTick_dir (e : Eng) : (countTick e).dir = e.dir := rfl

@[simp] theorem countTick_buf (e : Eng) : (countTick e).buf = e.buf := rfl

@[simp] theorem countTick_nbits (e : Eng) : (countTick e).nbits = e.nbits := rfl

@[simp] theorem countTick_status (e : Eng) : (countTick e).status = e.status := rfl

@[simp] theorem countTick_idleTicks (e : Eng) : (countTick e).idleTicks = e.idleTicks + 1 := rfl

@[simp] theorem countTick_pending (e : Eng) : (countTick e).pending = e.pending := rfl

@[simp] theorem countTick_edgeSense (e : Eng) : (countTick e).edgeSense = e.edgeSense := rfl

@[simp] theorem countTick_rearmWait (e : Eng) : (countTick e).rearmWait = e.rearmWait := rfl

@[simp] theorem countTick_dataDrive (e : Eng) : (countTick e).dataDrive = e.dataDrive := rfl

/-! ### andThen -/

@[simp] theorem andThen_next (s : State) (f : State → Result) : andThen (.next s) f = f s := rfl

@[simp] theorem andThen_refused (r : Refusal) (f : State → Result) : andThen (.refused r) f = .refused r := rfl

/-- What a sequence that answers a next state went through. -/
theorem andThen_next_iff (r : Result) (f : State → Result) (t : State) :
    andThen r f = .next t ↔ ∃ s, r = .next s ∧ f s = .next t := by
  cases r <;> simp [andThen]

end Sys2Proof.Machine
end

