-- ==== Sys2Proof/Laws/Ops.lean ====
section
/-! SUPPORT. One lemma for each shared operation that says once everything it can do; the meanings are read through
these. -/

namespace Sys2Proof.Machine

/-! ### Starting a transfer and the outputs of SEQ -/

/-- A transfer starts only from idle, and then ENG is as armed and nothing else changes (R101, R221). -/
theorem beginTransfer_next_iff (armed : Eng) (s t : State) :
    beginTransfer armed s = .next t ↔ s.eng.status = .idle ∧ t = s.setEng armed := by
  unfold beginTransfer
  split
  · simp [*, eq_comm]
  · simp [*]

/-- A `Cmd` in TOP starts the transfer, from idle; elsewhere it does nothing more. -/
theorem toEngine_next_iff (armed : Eng) (s t : State) :
    toEngine armed s = .next t ↔
      (s.conf = .top ∧ s.eng.status = .idle ∧ t = s.setEng armed) ∨ (s.conf ≠ .top ∧ t = s) := by
  cases h : s.conf <;> simp only [toEngine, h]
  · simp [beginTransfer_next_iff]
  · simp [eq_comm]
  · simp [eq_comm]

/-- What awaiting a reply leaves: the new state of SEQ, the `Cmd` last, and in TOP the read armed. -/
theorem awaitReply_next_iff (st : SeqState) (s t : State) :
    awaitReply st s = .next t ↔
      (s.conf = .top ∧ s.eng.status = .idle ∧ t = ((s.goto st).emit .cmdRead).setEng engArmedRead) ∨
        (s.conf ≠ .top ∧ t = (s.goto st).emit .cmdRead) := by
  simp [awaitReply, cmdBeginRead, toEngine_next_iff]

/-- What issuing a command leaves: SEQ's state in flight, the `Cmd` last, and in TOP the write armed. -/
theorem issue_next_iff (c : Command) (s t : State) :
    issue c s = .next t ↔
      (s.conf = .top ∧ s.eng.status = .idle ∧
        t = ((s.goto (stateInFlight c)).emit (.cmdWrite (commandByte c))).setEng (engArmedWrite (commandByte c))) ∨
        (s.conf ≠ .top ∧ t = (s.goto (stateInFlight c)).emit (.cmdWrite (commandByte c))) := by
  simp [issue, cmdBeginWrite, toEngine_next_iff]

/-- A command row answers a next state in ENG alone by arming the write, elsewhere by issuing the command in turn. -/
theorem commandRow_next_iff (c : Command) (s t : State) :
    commandRow c s = .next t ↔
      (s.conf = .engAlone ∧ s.eng.status = .idle ∧ t = s.setEng (engArmedWrite (commandByte c))) ∨
        (s.conf ≠ .engAlone ∧ issuedFrom c s.seq.state = true ∧ issue c s = .next t) := by
  cases h : s.conf <;> simp only [commandRow, h]
  · by_cases hi : issuedFrom c s.seq.state = true <;> simp [hi]
  · simp [beginTransfer_next_iff]
  · by_cases hi : issuedFrom c s.seq.state = true <;> simp [hi]

/-- A row runs only in its state. -/
theorem inState_next_iff (st : SeqState) (f : State → Result) (s t : State) :
    inState st f s = .next t ↔ s.seq.state = st ∧ f s = .next t := by
  unfold inState
  split <;> simp [*]

/-! ### ENG's handlers -/

theorem fallSensed_iff (e : Eng) : fallSensed e = true ↔ e.status = .inProgress ∧ e.edgeSense = .falling := by
  simp [fallSensed]

theorem riseSensed_iff (e : Eng) : riseSensed e = true ↔ e.status = .inProgress ∧ e.edgeSense = .rising := by
  simp [riseSensed]

theorem completed_iff (e : Eng) : completed e = true ↔ e.status = .completedOk ∨ e.status = .completedFailed := by
  simp [completed]

/-- A falling edge that is not sensed changes nothing (R112). -/
theorem engFall_unsensed (d : Bool) (e : Eng) (h : fallSensed e = false) : engFall d e = e := by
  simp [engFall, h]

/-- A rising edge that is not sensed changes nothing (R112). -/
theorem engRise_unsensed (e : Eng) (h : riseSensed e = false) : engRise e = e := by
  simp [engRise, h]

/-- A sensed falling edge of a read (R110). -/
theorem engFall_read (d : Bool) (e : Eng) (h : fallSensed e = true) (hd : e.dir = .read) :
    engFall d e =
      { e with buf := setBit e.buf (7 - e.nbits) d, nbits := e.nbits + 1,
               edgeSense := if e.nbits = 7 then .rising else e.edgeSense } := by
  by_cases hn : e.nbits = 7 <;> simp [engFall, h, transferBit, hd, countBit, bitIndex, hn]

/-- A sensed falling edge of a write (R110). -/
theorem engFall_write (d : Bool) (e : Eng) (h : fallSensed e = true) (hd : e.dir = .write) :
    engFall d e =
      { e with dataDrive := driveOfBit (bitOf e.buf (7 - e.nbits)), nbits := e.nbits + 1,
               edgeSense := if e.nbits = 7 then .rising else e.edgeSense } := by
  by_cases hn : e.nbits = 7 <;> simp [engFall, h, transferBit, hd, countBit, bitIndex, hn]

/-- A sensed rising edge completes the transfer (R113). -/
theorem engRise_sensed (e : Eng) (h : riseSensed e = true) :
    engRise e = { e with dataDrive := .released, edgeSense := .off, status := .completedOk } := by
  simp [engRise, h]

/-- Outside a transfer a tick changes nothing (R123). -/
theorem engTick_outside (n : Nat) (e : Eng) (h : e.status ≠ .inProgress) : engTick n e = e := by
  simp [engTick, h]

/-- A tick of a transfer within the window: re-arm and count (R114, R118). -/
theorem engTick_counts (n : Nat) (e : Eng) (h : e.status = .inProgress) (hn : e.idleTicks + 1 ≤ n) :
    engTick n e =
      { e with idleTicks := e.idleTicks + 1, rearmWait := false,
               edgeSense := if e.rearmWait then .falling else e.edgeSense } := by
  have h' : ¬ n < e.idleTicks + 1 := by omega
  cases hw : e.rearmWait <;> simp [engTick, h, timedOut, rearm, hw, countTick, h']

/-- The tick past the window fails the transfer (R118, R122). -/
theorem engTick_fails (n : Nat) (e : Eng) (h : e.status = .inProgress) (hn : n < e.idleTicks + 1) :
    engTick n e =
      { e with idleTicks := e.idleTicks + 1, status := .completedFailed, edgeSense := .off, rearmWait := false,
               dataDrive := .released } := by
  cases hw : e.rearmWait <;> simp [engTick, h, timedOut, rearm, hw, countTick, hn, raiseTransferTimeout]

/-! ### Bits -/

/-- Reading a bit after writing one. -/
theorem bitOf_setBit (v : Byte) (i j : Nat) (d : Bool) (hi : i < 8) (hj : j < 8) :
    bitOf (setBit v i d) j = if j = i then d else bitOf v j := by
  have : ∀ (v : BitVec 8) (i j : Fin 8) (d : Bool),
      bitOf (setBit v i d) j = if (j : Nat) = i then d else bitOf v j := by decide
  exact this v ⟨i, hi⟩ ⟨j, hj⟩ d

/-- A byte is its eight bits. -/
theorem byte_ext (v w : Byte) (h : ∀ j, j < 8 → bitOf v j = bitOf w j) : v = w := by
  apply BitVec.eq_of_getLsbD_eq
  exact h

/-- The drive of a bit resolves to that level when the peer does not pull (R58, R59). -/
@[simp] theorem lineLevel_driveOfBit (bit : Bool) : lineLevel (driveOfBit bit) false = bit := by
  cases bit <;> rfl

/-- While the block pulls, the line is low (R58). -/
@[simp] theorem lineLevel_low (peerPulls : Bool) : lineLevel .low peerPulls = false := rfl

/-- The fail bit of ENG's result codes (R79). -/
@[simp] theorem failBit_zero : failBit 0 = false := rfl

@[simp] theorem failBit_failCode : failBit failCode = true := rfl

end Sys2Proof.Machine
end

