-- ==== Sys2Proof/Laws/PerInstr.lean ====
section
/-! SUPPORT. Statements made per instruction (LAWS.json, "per_instruction"). FitsFormat: every encoded word fits the
width of its format (spec/30_encoding.md R70, R85, R88). -/

namespace Sys2Proof.Laws.FitsFormat

/-- The word of `i` has no bit above its format's width. -/
def Statement (i : Instr) : Prop := (encode i).word.toNat < 2 ^ (encode i).format.width

/-- A byte as a word fits 8 bits. -/
theorem byte_fits (b : Byte) : (b.setWidth 12).toNat < 2 ^ 8 := by
  rw [BitVec.toNat_setWidth]
  exact lt_of_le_of_lt (Nat.mod_le _ _) b.isLt

/-- An event word fits 11 bits. -/
theorem event_fits (w : EventWord) : (w.setWidth 12).toNat < 2 ^ 11 := by
  rw [BitVec.toNat_setWidth]
  exact lt_of_le_of_lt (Nat.mod_le _ _) w.isLt

/-- A completion word fits 12 bits. -/
theorem completion_fits (w : CompletionWord) : w.toNat < 2 ^ 12 := w.isLt

theorem queryModel : Statement .queryModel := byte_fits _

theorem reqTransition : Statement .reqTransition := byte_fits _

theorem reqInstant : Statement .reqInstant := byte_fits _

theorem rspModel (d : Byte) : Statement (.rspModel d) := byte_fits _

theorem rspNull : Statement .rspNull := byte_fits _

theorem rspKeypadPending : Statement .rspKeypadPending := byte_fits _

theorem rspTransition (up : Bool) (scancode : BitVec 7) : Statement (.rspTransition up scancode) := byte_fits _

theorem rspInstant (up : Bool) (scancode : BitVec 7) : Statement (.rspInstant up scancode) := byte_fits _

theorem reset : Statement .reset := event_fits _

theorem start : Statement .start := event_fits _

theorem tick : Statement .tick := event_fits _

theorem poll : Statement .poll := event_fits _

theorem fall (d : Bool) : Statement (.fall d) := event_fits _

theorem rise : Statement .rise := event_fits _

theorem beginRead : Statement .beginRead := event_fits _

theorem beginWrite (b : Byte) : Statement (.beginWrite b) := event_fits _

theorem tBadStateStopped (fail : Bool) (data : Byte) : Statement (.tBadStateStopped fail data) := completion_fits _

theorem tBadStateCode7 (fail : Bool) (data : Byte) : Statement (.tBadStateCode7 fail data) := completion_fits _

theorem tFail (st : SeqState) (data : Byte) : Statement (.tFail st data) := completion_fits _

theorem tModelW (data : Byte) : Statement (.tModelW data) := completion_fits _

theorem tModelR (data : Byte) : Statement (.tModelR data) := completion_fits _

theorem tTransW (data : Byte) : Statement (.tTransW data) := completion_fits _

theorem tTransRKeypad : Statement .tTransRKeypad := completion_fits _

theorem tTransRNull : Statement .tTransRNull := completion_fits _

theorem tTransRKey (data : Byte) : Statement (.tTransRKey data) := completion_fits _

theorem tInstW (data : Byte) : Statement (.tInstW data) := completion_fits _

theorem tInstR (data : Byte) : Statement (.tInstR data) := completion_fits _

end Sys2Proof.Laws.FitsFormat
end

