-- ==== Sys2Proof/Laws/Step.lean ====
section
/-! SUPPORT. What one instruction can do, said once: a reaction of SEQ, a POLL, and the list of everything `exec` can
answer. -/

namespace Sys2Proof.Machine

/-- ENG as the `Cmd` that enters a state of SEQ arms it. -/
def armedFor (st : SeqState) : Eng :=
  match st with
  | .stopped => Eng.reset
  | .awaitModelWrite => engArmedWrite 0x16
  | .awaitTransitionWrite => engArmedWrite 0x10
  | .awaitInstantWrite => engArmedWrite 0x14
  | .awaitModelRead | .awaitTransitionRead | .awaitInstantRead => engArmedRead

/-- A reaction of SEQ from `s` to `t`: it emits `keys`, enters `st` with the flag at `kp`, emits the `Cmd` of `st`, and in
TOP that arms ENG, which must be idle. -/
structure Reaction (s t : State) (keys : List Emit) (st : SeqState) (kp : Bool) : Prop where
  enters : ∃ cmd, enteringCmd st = some cmd ∧
    t = { s with seq := { state := st, kpPending := kp }, emits := s.emits ++ keys ++ [cmd],
                 eng := if s.conf = .top then armedFor st else s.eng }
  idle : s.conf = .top → s.eng.status = .idle

/-- Issuing a command is a reaction. -/
theorem issue_reaction {c : Command} {s t : State} (h : issue c s = .next t) :
    Reaction s t [] (stateInFlight c) s.seq.kpPending := by
  rcases (issue_next_iff c s t).1 h with ⟨hc, hi, rfl⟩ | ⟨hc, rfl⟩
  · exact ⟨⟨.cmdWrite (commandByte c), by cases c <;> rfl, by
      cases c <;> simp [hc, State.setEng, State.emit, State.goto, armedFor, stateInFlight, commandByte, cmdModelByte,
        cmdTransitionByte, cmdInstantByte]⟩, fun _ => hi⟩
  · exact ⟨⟨.cmdWrite (commandByte c), by cases c <;> rfl, by simp [hc, State.emit, State.goto]⟩, fun h' => absurd h' hc⟩

/-- Awaiting a reply is a reaction, into a read state. -/
theorem awaitReply_reaction {st : SeqState} {s t : State} (hst : awaitedKind st = some .read)
    (h : awaitReply st s = .next t) : Reaction s t [] st s.seq.kpPending := by
  rcases (awaitReply_next_iff st s t).1 h with ⟨hc, hi, rfl⟩ | ⟨hc, rfl⟩
  · refine ⟨⟨.cmdRead, ?_, ?_⟩, fun _ => hi⟩
    · cases st <;> simp_all [awaitedKind, enteringCmd]
    · cases st <;> simp_all [awaitedKind, State.setEng, State.emit, State.goto, armedFor]
  · refine ⟨⟨.cmdRead, ?_, ?_⟩, fun h' => absurd h' hc⟩
    · cases st <;> simp_all [awaitedKind, enteringCmd]
    · simp [hc, State.emit, State.goto]

/-- A reaction from a state whose flag or keys were prepared first. -/
theorem Reaction.prepared {s t : State} {keys new : List Emit} {st : SeqState} {kp kp' : Bool}
    (h : Reaction { s with seq := { s.seq with kpPending := kp' }, emits := s.emits ++ new } t keys st kp) :
    Reaction s t (new ++ keys) st kp := by
  obtain ⟨⟨cmd, hc, ht⟩, hi⟩ := h
  exact ⟨⟨cmd, hc, by simpa [List.append_assoc] using ht⟩, hi⟩

theorem onKeypadByte_reaction {s t : State} (h : onKeypadByte s = .next t) : Reaction s t [] .awaitInstantWrite true := by
  have h' := issue_reaction h
  have := Reaction.prepared (s := s) (new := []) (kp' := true) (t := t) (keys := []) (st := .awaitInstantWrite)
    (kp := true) (by simpa [State.setKp, stateInFlight] using h')
  simpa using this

theorem restart_reaction {s t : State} (h : restart s = .next t) : Reaction s t [] .awaitModelWrite false := by
  have h' := issue_reaction h
  have := Reaction.prepared (s := s) (new := []) (kp' := false) (t := t) (keys := []) (st := .awaitModelWrite)
    (kp := false) (by simpa [State.setKp, stateInFlight] using h')
  simpa using this

theorem onKeyByte_reaction {s t : State} {data : Byte} (h : onKeyByte data s = .next t) :
    Reaction s t [.key data s.seq.kpPending] .awaitTransitionWrite s.seq.kpPending := by
  have h' := issue_reaction h
  have := Reaction.prepared (s := s) (new := [.key data s.seq.kpPending]) (kp' := s.seq.kpPending) (t := t)
    (keys := []) (st := .awaitTransitionWrite) (kp := s.seq.kpPending)
    (by simpa [handKey, State.emit, stateInFlight] using h')
  simpa using this

theorem onInstantByte_reaction {s t : State} {data : Byte} (h : onInstantByte data s = .next t) :
    Reaction s t [.key data s.seq.kpPending] .awaitTransitionWrite false := by
  have h' := issue_reaction h
  have := Reaction.prepared (s := s) (new := [.key data s.seq.kpPending]) (kp' := false) (t := t)
    (keys := []) (st := .awaitTransitionWrite) (kp := false)
    (by simpa [handKey, State.setKp, State.emit, stateInFlight] using h')
  simpa using this

/-- What SEQ does with a successful byte in a state: the keys it hands on, the state it enters, the flag after it. -/
inductive Follows (s : State) : List Emit → SeqState → Bool → Prop
  | modelW : s.seq.state = .awaitModelWrite → Follows s [] .awaitModelRead s.seq.kpPending
  | modelR : s.seq.state = .awaitModelRead → Follows s [] .awaitTransitionWrite s.seq.kpPending
  | transW : s.seq.state = .awaitTransitionWrite → Follows s [] .awaitTransitionRead s.seq.kpPending
  | keypad : s.seq.state = .awaitTransitionRead → Follows s [] .awaitInstantWrite true
  | null : s.seq.state = .awaitTransitionRead → Follows s [] .awaitTransitionWrite s.seq.kpPending
  | key (data : Byte) : s.seq.state = .awaitTransitionRead → isSentinel data = false →
      Follows s [.key data s.seq.kpPending] .awaitTransitionWrite s.seq.kpPending
  | instW : s.seq.state = .awaitInstantWrite → Follows s [] .awaitInstantRead s.seq.kpPending
  | instR (data : Byte) : s.seq.state = .awaitInstantRead →
      Follows s [.key data s.seq.kpPending] .awaitTransitionWrite false
  | fail : s.seq.state ≠ .stopped → Follows s [] .awaitModelWrite false
  | start : s.seq.state = .stopped → Follows s [] .awaitModelWrite false

/-- Every row of the completion map that answers a next state is a reaction. -/
theorem runRow_reaction {i : Instr} {s t : State} (h : runRow i s = .next t) :
    ∃ keys st kp, Reaction s t keys st kp ∧ Follows s keys st kp := by
  cases i <;> simp only [runRow, execTBadStateStopped, execTBadStateCode7, reduceCtorEq] at h
  case tFail st data =>
    by_cases hs : st = .stopped
    · simp [execTFail, hs] at h
    · simp only [execTFail, hs, if_false, inState_next_iff] at h
      exact ⟨_, _, _, restart_reaction h.2, .fail (by rw [h.1]; exact hs)⟩
  case tModelW data =>
    rw [execTModelW, inState_next_iff] at h
    exact ⟨_, _, _, awaitReply_reaction rfl h.2, .modelW h.1⟩
  case tModelR data =>
    rw [execTModelR, inState_next_iff] at h
    exact ⟨_, _, _, issue_reaction h.2, .modelR h.1⟩
  case tTransW data =>
    rw [execTTransW, inState_next_iff] at h
    exact ⟨_, _, _, awaitReply_reaction rfl h.2, .transW h.1⟩
  case tTransRKeypad =>
    rw [execTTransRKeypad, inState_next_iff] at h
    exact ⟨_, _, _, onKeypadByte_reaction h.2, .keypad h.1⟩
  case tTransRNull =>
    rw [execTTransRNull, inState_next_iff] at h
    exact ⟨_, _, _, issue_reaction h.2, .null h.1⟩
  case tTransRKey data =>
    by_cases hs : isSentinel data = true
    · simp [execTTransRKey, hs] at h
    · simp only [execTTransRKey, hs, Bool.false_eq_true, if_false, inState_next_iff] at h
      exact ⟨_, _, _, onKeyByte_reaction h.2, .key data h.1 (by simpa using hs)⟩
  case tInstW data =>
    rw [execTInstW, inState_next_iff] at h
    exact ⟨_, _, _, awaitReply_reaction rfl h.2, .instW h.1⟩
  case tInstR data =>
    rw [execTInstR, inState_next_iff] at h
    exact ⟨_, _, _, onInstantByte_reaction h.2, .instR data h.1⟩

/-- What a POLL that answers a next state did. -/
inductive PollDid (s t : State) : Prop
  /-- nothing to deliver (R127) -/
  | nothing : completed s.eng = false → t = s → PollDid s t
  /-- a completed status with nothing pending: a state no run reaches -/
  | noPending : completed s.eng = true → s.eng.pending = .none → t = s.setEng (engTaken s.eng) → PollDid s t
  /-- a `Done` that is not delivered to SEQ -/
  | emits (done : Emit) (k : Nat) : completed s.eng = true → s.eng.pending ≠ .none → isDone done = true → s.conf ≠ .top →
      t = { s with eng := engTaken s.eng, emits := s.emits ++ [done], freeIdx := k } → PollDid s t
  /-- a `Done` that SEQ reacts to -/
  | reacts (kind : Dir) (result data : Byte) (done : Emit) (k : Nat) : completed s.eng = true →
      s.eng.pending ≠ .none → isDone done = true → s.conf = .top →
      (failBit result = false → s.eng.status = .completedOk) →
      (kind = .read → s.eng.pending = .pendingRead ∧ (failBit result = false → data = s.eng.buf)) →
      (kind = .write → s.eng.pending = .pendingWrite) →
      complete kind result data { s with eng := engTaken s.eng, emits := s.emits ++ [done], freeIdx := k } = .next t →
      PollDid s t

theorem execPoll_did {s t : State} (h : execPoll s = .next t) : PollDid s t := by
  unfold execPoll at h
  by_cases hc : completed s.eng = true
  · simp only [hc, if_true] at h
    cases hp : s.eng.pending <;> simp only [hp] at h
    · exact .noPending hc hp (by simpa [eq_comm] using h)
    · by_cases hs : s.eng.status = .completedOk
      · simp only [hs, if_true] at h
        cases hconf : s.conf
        · simp only [deliverRead, toSequencer, State.emit_conf, State.setEng_conf, hconf] at h
          exact .reacts .read 0 s.eng.buf (.doneRead 0 s.eng.buf) s.freeIdx hc (by simp [hp]) rfl hconf (fun _ => hs)
            (fun _ => ⟨hp, fun _ => rfl⟩) (by simp) (by simpa [State.emit, State.setEng] using h)
        all_goals
          simp only [deliverRead, toSequencer, State.emit_conf, State.setEng_conf, hconf, Host.Outcome.next.injEq] at h
          exact .emits (.doneRead 0 s.eng.buf) s.freeIdx hc (by simp [hp]) rfl (by simp [hconf])
            (by simp [← h, State.emit, State.setEng])
      · simp only [hs, if_false] at h
        cases hconf : s.conf
        · simp only [deliverRead, toSequencer, State.emit_conf, State.setEng_conf, State.takeFree_conf, hconf] at h
          exact .reacts .read failCode _ (.doneRead failCode (Config.failedReadByte s.freeIdx)) (s.freeIdx + 1) hc
            (by simp [hp]) rfl hconf (by simp) (fun _ => ⟨hp, by simp⟩) (by simp)
            (by simpa [State.emit, State.setEng, State.takeFree] using h)
        all_goals
          simp only [deliverRead, toSequencer, State.emit_conf, State.setEng_conf, State.takeFree_conf, hconf,
            Host.Outcome.next.injEq] at h
          exact .emits (.doneRead failCode (Config.failedReadByte s.freeIdx)) (s.freeIdx + 1) hc (by simp [hp]) rfl
            (by simp [hconf]) (by simp [← h, State.emit, State.setEng, State.takeFree])
    · cases hconf : s.conf
      · simp only [deliverWrite, toSequencer, State.emit_conf, State.setEng_conf, hconf] at h
        refine .reacts .write (resultCode s.eng) 0 (.doneWrite (resultCode s.eng)) s.freeIdx hc (by simp [hp]) rfl hconf
          ?_ (by simp) (fun _ => hp) (by simpa [State.emit, State.setEng] using h)
        intro hf
        by_cases hs : s.eng.status = .completedOk
        · exact hs
        · simp [resultCode, hs] at hf
      all_goals
        simp only [deliverWrite, toSequencer, State.emit_conf, State.setEng_conf, hconf, Host.Outcome.next.injEq] at h
        exact .emits (.doneWrite (resultCode s.eng)) s.freeIdx hc (by simp [hp]) rfl (by simp [hconf])
          (by simp [← h, State.emit, State.setEng])
  · simp only [hc, Bool.false_eq_true, if_false, Host.Outcome.next.injEq] at h
    exact .nothing (by simpa using hc) h.symm

/-- A completion that answers a next state is a reaction. -/
theorem complete_reaction {kind : Dir} {result data : Byte} {s t : State} (h : complete kind result data s = .next t) :
    ∃ keys st kp, Reaction s t keys st kp ∧ Follows s keys st kp := by
  unfold complete at h
  split at h
  · simp at h
  · exact runRow_reaction h

/-- Everything an instruction that answers a next state can have done. -/
inductive Did (i : Instr) (s t : State) : Prop
  | reset : i = .reset → t = { s with eng := Eng.reset, seq := Seq.reset } → Did i s t
  | tick : i = .tick → t = s.setEng (engTick Config.timeoutTicks s.eng) → Did i s t
  | fall (d : Bool) : i = .fall d → t = s.setEng (engFall d s.eng) → Did i s t
  | rise : i = .rise → t = s.setEng (engRise s.eng) → Did i s t
  | poll : i = .poll → PollDid s t → Did i s t
  /-- a transfer started by the client of ENG -/
  | begins (e : Eng) : (s.conf = .engAlone ∨ i = .beginRead ∨ ∃ b, i = .beginWrite b) →
      (e = engArmedRead ∨ ∃ b, e = engArmedWrite b) → i ≠ .tick → i ≠ .poll → i ≠ .reset →
      isEdge i = false → (∀ c, accepts c i = true → c = .engAlone) → s.eng.status = .idle → t = s.setEng e → Did i s t
  /-- a reaction of SEQ -/
  | reacts (keys : List Emit) (st : SeqState) (kp : Bool) : i ≠ .tick → i ≠ .poll → i ≠ .reset → isEdge i = false →
      Reaction s t keys st kp → (Follows s keys st kp ∨ (keys = [] ∧ kp = s.seq.kpPending ∧
        (seqEdge s.seq.state st = true ∨ st = s.seq.state) ∧ ∀ c, accepts c i = true → c = .engAlone)) → Did i s t

theorem commandRow_did {c : Command} {i : Instr} {s t : State} (h1 : i ≠ .tick) (h2 : i ≠ .poll) (h3 : i ≠ .reset)
    (h4 : isEdge i = false) (h5 : ∀ c, accepts c i = true → c = .engAlone) (h : commandRow c s = .next t) :
    Did i s t := by
  rcases (commandRow_next_iff c s t).1 h with ⟨hc, hi, rfl⟩ | ⟨_, hf, hi⟩
  · exact .begins _ (.inl hc) (.inr ⟨_, rfl⟩) h1 h2 h3 h4 h5 hi rfl
  · refine .reacts _ _ _ h1 h2 h3 h4 (issue_reaction hi) (.inr ⟨rfl, rfl, ?_, h5⟩)
    cases c <;> cases hs : s.seq.state <;> simp_all [issuedFrom, stateInFlight, seqEdge]

theorem row_did {i : Instr} {s t : State} (h1 : i ≠ .tick) (h2 : i ≠ .poll) (h3 : i ≠ .reset) (h4 : isEdge i = false)
    (h : runRow i s = .next t) : Did i s t := by
  obtain ⟨keys, st, kp, hr, hf⟩ := runRow_reaction h
  exact .reacts keys st kp h1 h2 h3 h4 hr (.inl hf)

/-- What an instruction that answers a next state did. -/
theorem exec_did {i : Instr} {s t : State} (h : exec i s = .next t) : Did i s t := by
  cases i
  case queryModel => exact commandRow_did (c := .queryModel) (by simp) (by simp) (by simp) rfl (by simp [accepts]) h
  case reqTransition => exact commandRow_did (c := .reqTransition) (by simp) (by simp) (by simp) rfl (by simp [accepts]) h
  case reqInstant => exact commandRow_did (c := .reqInstant) (by simp) (by simp) (by simp) rfl (by simp [accepts]) h
  case rspModel d =>
    obtain ⟨hs, h⟩ := (inState_next_iff _ _ s t).1 h
    exact .reacts _ _ _ (by simp) (by simp) (by simp) rfl (issue_reaction h) (.inl (.modelR hs))
  case rspNull =>
    obtain ⟨hs, h⟩ := (inState_next_iff _ _ s t).1 h
    exact .reacts _ _ _ (by simp) (by simp) (by simp) rfl (issue_reaction h) (.inl (.null hs))
  case rspKeypadPending =>
    obtain ⟨hs, h⟩ := (inState_next_iff _ _ s t).1 h
    exact .reacts _ _ _ (by simp) (by simp) (by simp) rfl (onKeypadByte_reaction h) (.inl (.keypad hs))
  case rspTransition up scancode =>
    change execRspTransition up scancode s = _ at h
    unfold execRspTransition at h
    split at h
    · simp at h
    · obtain ⟨hs, h⟩ := (inState_next_iff _ _ s t).1 h
      exact .reacts _ _ _ (by simp) (by simp) (by simp) rfl (onKeyByte_reaction h) (.inl (.key _ hs (by simp_all)))
  case rspInstant up scancode =>
    obtain ⟨hs, h⟩ := (inState_next_iff _ _ s t).1 h
    exact .reacts _ _ _ (by simp) (by simp) (by simp) rfl (onInstantByte_reaction h) (.inl (.instR _ hs))
  case reset => exact .reset rfl (by simpa [exec, execReset, eq_comm] using h)
  case start =>
    change execStart s = _ at h
    unfold execStart at h
    split at h
    · rename_i hs
      exact .reacts _ _ _ (by simp) (by simp) (by simp) rfl (restart_reaction h) (.inl (.start hs))
    · simp at h
  case tick => exact .tick rfl (by simpa [exec, execTick, eq_comm] using h)
  case poll => exact .poll rfl (execPoll_did h)
  case fall d => exact .fall d rfl (by simpa [exec, execFall, eq_comm] using h)
  case rise => exact .rise rfl (by simpa [exec, execRise, eq_comm] using h)
  case beginRead =>
    obtain ⟨hi, ht⟩ := (beginTransfer_next_iff _ s t).1 h
    exact .begins _ (.inr (.inl rfl)) (.inl rfl) (by simp) (by simp) (by simp) rfl (by simp [accepts]) hi ht
  case beginWrite b =>
    obtain ⟨hi, ht⟩ := (beginTransfer_next_iff _ s t).1 h
    exact .begins _ (.inr (.inr ⟨b, rfl⟩)) (.inr ⟨b, rfl⟩) (by simp) (by simp) (by simp) rfl (by simp [accepts]) hi ht
  case tBadStateStopped fail data => exact row_did (i := (.tBadStateStopped fail data)) (by simp) (by simp) (by simp) rfl h
  case tBadStateCode7 fail data => exact row_did (i := (.tBadStateCode7 fail data)) (by simp) (by simp) (by simp) rfl h
  case tFail st data => exact row_did (i := (.tFail st data)) (by simp) (by simp) (by simp) rfl h
  case tModelW data => exact row_did (i := (.tModelW data)) (by simp) (by simp) (by simp) rfl h
  case tModelR data => exact row_did (i := (.tModelR data)) (by simp) (by simp) (by simp) rfl h
  case tTransW data => exact row_did (i := (.tTransW data)) (by simp) (by simp) (by simp) rfl h
  case tTransRKeypad => exact row_did (i := .tTransRKeypad) (by simp) (by simp) (by simp) rfl h
  case tTransRNull => exact row_did (i := .tTransRNull) (by simp) (by simp) (by simp) rfl h
  case tTransRKey data => exact row_did (i := (.tTransRKey data)) (by simp) (by simp) (by simp) rfl h
  case tInstW data => exact row_did (i := (.tInstW data)) (by simp) (by simp) (by simp) rfl h
  case tInstR data => exact row_did (i := (.tInstR data)) (by simp) (by simp) (by simp) rfl h

end Sys2Proof.Machine
end

