-- ==== Sys2Proof/Tests/Slice0.lean ====
section
/-! SUPPORT. Tests: ill-formed terms refused, words decoded as the spec writes them, one step of each instruction from the
worked examples of the rules and the vectors of spec/95_test_vectors.md, and a witness for the hypotheses of each
statement. TIMEOUT_TICKS has no value in the model, so the vectors that take N = 3 test ENG's handler at threshold 3. -/

namespace Sys2Proof.Machine

/-! ### States the tests start from -/

/-- The reset state in a configuration. -/
def testIdle (c : Configuration) : State := { State.reset with conf := c }

/-- A state of ENG, the rest as after reset. -/
def testEng (e : Eng) (c : Configuration) : State := { State.reset with conf := c, eng := e }

/-- A state of SEQ, the rest as after reset. -/
def testSeq (st : SeqState) (kp : Bool) (c : Configuration) : State :=
  { State.reset with conf := c, seq := { state := st, kpPending := kp } }

/-- TOP with ENG and SEQ as given. -/
def testTop (e : Eng) (st : SeqState) (kp : Bool) : State :=
  { State.reset with eng := e, seq := { state := st, kpPending := kp } }

/-- The transfer of `e` completed without failure. -/
def testDone (e : Eng) : Eng := { e with status := .completedOk, edgeSense := .off, dataDrive := .released, nbits := 8 }

/-- The transfer of `e` failed. -/
def testFailed (e : Eng) : Eng :=
  { e with status := .completedFailed, edgeSense := .off, dataDrive := .released, rearmWait := false }

/-- A read that has been re-armed, with `k` bits in `b`. -/
def testReading (b : Byte) (k : Nat) : Eng :=
  { engArmedRead with buf := b, nbits := k, rearmWait := false, edgeSense := if k = 8 then .rising else .falling }

/-- A write of `b` with `k` bits out and the line at `drive`. -/
def testWriting (b : Byte) (k : Nat) (drive : Drive) : Eng :=
  { engArmedWrite b with nbits := k, dataDrive := drive, edgeSense := if k = 8 then .rising else .falling }

/-- The state an instruction leads to; where it stops, the state before. -/
def testAfter (i : Instr) (s : State) : State :=
  match exec i s with
  | .next t => t
  | .fault _ => s
  | .refused _ => s

/-- SEQ's state and flag after an instruction, and what it emitted. -/
def testSeqAfter (i : Instr) (s : State) : SeqState × Bool × List Emit :=
  ((testAfter i s).seq.state, (testAfter i s).seq.kpPending, (testAfter i s).emits)

/-! ### Ill-formed instructions (R75, R148, R151) -/

theorem test_wellFormed_rspTransition_null : (Instr.rspTransition false 0x7b).wellFormed = false := by decide

theorem test_wellFormed_rspTransition_keypad : (Instr.rspTransition false 0x79).wellFormed = false := by decide

theorem test_wellFormed_rspTransition_keyUpTwin : (Instr.rspTransition true 0x7b).wellFormed = true := by decide

theorem test_wellFormed_tTransRKey_keypad : (Instr.tTransRKey 0x79).wellFormed = false := by decide

theorem test_wellFormed_tTransRKey_null : (Instr.tTransRKey 0x7b).wellFormed = false := by decide

theorem test_wellFormed_tFail_stopped : (Instr.tFail .stopped 0).wellFormed = false := by decide

/-! ### Words written out from the tables of R73, R75, R86 and R89 -/

theorem test_decode_commands :
    decode .cmd8 0b0001_0110 = .ok .queryModel ∧ decode .cmd8 0b0001_0000 = .ok .reqTransition ∧
      decode .cmd8 0b0001_0100 = .ok .reqInstant ∧ decode .cmd8 0b0011_0110 = .error .noSuchCommand ∧
      decode .cmd8 0b1_0001_0110 = .error .tooWide := by decide

theorem test_decode_rspModel : decode (.rsp8 .awaitModelRead) 0b0111_1011 = .ok (.rspModel 0b0111_1011) := by decide

theorem test_decode_rspNull : decode (.rsp8 .awaitTransitionRead) 0b0111_1011 = .ok .rspNull := by decide

theorem test_decode_rspKeypadPending :
    decode (.rsp8 .awaitTransitionRead) 0b0111_1001 = .ok .rspKeypadPending := by decide

theorem test_decode_rspTransition :
    decode (.rsp8 .awaitTransitionRead) 0b0100_0001 = .ok (.rspTransition false 0x41) ∧
      decode (.rsp8 .awaitTransitionRead) 0b1111_1001 = .ok (.rspTransition true 0x79) := by decide

theorem test_decode_rspInstant :
    decode (.rsp8 .awaitInstantRead) 0b0111_1001 = .ok (.rspInstant false 0x79) ∧
      decode (.rsp8 .awaitInstantWrite) 0b0111_1001 = .error .noReadAwaited := by decide

/-- V80 to V83. -/
theorem test_decode_reset_start_tick_poll :
    decodeEV11 0b000_0000_0000 = .ok .reset ∧ decodeEV11 0b001_0000_0000 = .ok .start ∧
      decodeEV11 0b010_0000_0000 = .ok .tick ∧ decodeEV11 0b011_0000_0000 = .ok .poll := by decide

/-- V84 to V89. -/
theorem test_decode_edges_begins :
    decodeEV11 0b100_0000_0000 = .ok (.fall false) ∧ decodeEV11 0b100_0000_0001 = .ok (.fall true) ∧
      decodeEV11 0b101_0000_0000 = .ok .rise ∧ decodeEV11 0b110_0000_0000 = .ok .beginRead ∧
      decodeEV11 0b111_0001_0110 = .ok (.beginWrite 0x16) ∧
      decodeEV11 0b111_1111_1111 = .ok (.beginWrite 0xff) := by decide

/-- V90 to V92. -/
theorem test_decode_reserved :
    decodeEV11 0x402 = .error .reservedEventWord ∧ decodeEV11 0x201 = .error .reservedEventWord ∧
      decodeEV11 0x5ff = .error .reservedEventWord := by decide

/-- V67, and state code 7 (R89, row 1). -/
theorem test_decode_tBadState :
    decodeCW12 0b000_0_00000000 = .tBadStateStopped false 0 ∧
      decodeCW12 0b111_1_00000001 = .tBadStateCode7 true 1 := by decide

/-- V60 to V66. -/
theorem test_decode_tFail :
    decodeCW12 0x300 = .tFail .awaitModelWrite 0 ∧ decodeCW12 0x500 = .tFail .awaitModelRead 0 ∧
      decodeCW12 0x700 = .tFail .awaitTransitionWrite 0 ∧ decodeCW12 0x979 = .tFail .awaitTransitionRead 0x79 ∧
      decodeCW12 0xb00 = .tFail .awaitInstantWrite 0 ∧ decodeCW12 0xd40 = .tFail .awaitInstantRead 0x40 := by decide

/-- V41 to V45. -/
theorem test_decode_model_rows :
    decodeCW12 0x200 = .tModelW 0 ∧ decodeCW12 0x40b = .tModelR 0x0b ∧ decodeCW12 0x479 = .tModelR 0x79 ∧
      decodeCW12 0x600 = .tTransW 0 := by decide

/-- V46 to V53. -/
theorem test_decode_transition_rows :
    decodeCW12 0x87b = .tTransRNull ∧ decodeCW12 0x879 = .tTransRKeypad ∧ decodeCW12 0x841 = .tTransRKey 0x41 ∧
      decodeCW12 0x8fb = .tTransRKey 0xfb ∧ decodeCW12 0x8f9 = .tTransRKey 0xf9 := by decide

/-- V54 to V57. -/
theorem test_decode_instant_rows :
    decodeCW12 0xa00 = .tInstW 0 ∧ decodeCW12 0xc0d = .tInstR 0x0d ∧ decodeCW12 0xc79 = .tInstR 0x79 := by decide

/-- The bare words of the table: the examples of R86, and one of each other format. -/
theorem test_decodeTableWord :
    decodeTableWord 8 0x14 = some .reqInstant ∧ decodeTableWord 8 0x7b = some .rspNull ∧
      decodeTableWord 16 0x401 = some (.fall true) ∧ decodeTableWord 11 0x402 = none ∧
      decodeTableWord 12 0x300 = some (.tFail .awaitModelWrite 0) ∧
      decodeTableWord 16 0x879 = some .tTransRKeypad := by decide

/-- The codes of the state fields (R21 to R30). -/
theorem test_stateCodes :
    statusCode .completedFailed = 3 ∧ pendingCode .pendingWrite = 2 ∧ edgeSenseCode .rising = 2 ∧ driveCode .low = 1 ∧
      dirCode .write = 1 ∧ nbitsCode 8 = 8 ∧ SeqState.code .awaitInstantRead = 6 := by decide

/-! ### The commands (R153 to R155) -/

/-- The drive sequence of `0x16` is L L L H L H H L (R153). -/
theorem test_queryModel_drive :
    [7, 6, 5, 4, 3, 2, 1, 0].map (fun i => driveOfBit (bitOf (commandByte .queryModel) i)) =
      [.low, .low, .low, .released, .low, .released, .released, .low] := by decide

theorem test_queryModel_engAlone :
    (testAfter .queryModel (testIdle .engAlone)).eng = testWriting 0x16 0 .low := by decide

/-- The drive sequence of `0x10` is L L L H L L L L (R154). -/
theorem test_reqTransition_drive :
    [7, 6, 5, 4, 3, 2, 1, 0].map (fun i => driveOfBit (bitOf (commandByte .reqTransition) i)) =
      [.low, .low, .low, .released, .low, .low, .low, .low] := by decide

theorem test_reqTransition_seqAlone :
    testSeqAfter .reqTransition (testSeq .awaitInstantRead true .seqAlone) =
      (.awaitTransitionWrite, true, [.cmdWrite 0x10]) := by decide

/-- The drive sequence of `0x14` is L L L H L H L L (R155). -/
theorem test_reqInstant_drive :
    [7, 6, 5, 4, 3, 2, 1, 0].map (fun i => driveOfBit (bitOf (commandByte .reqInstant) i)) =
      [.low, .low, .low, .released, .low, .released, .low, .low] := by decide

/-- REQ_INSTANT is issued after the sentinel of a transition read only (R155). -/
theorem test_reqInstant_outOfTurn :
    exec .reqInstant (testSeq .awaitModelRead false .seqAlone) = .refused .commandOutOfTurn := rfl

/-! ### The response classes (R156 to R160) -/

theorem test_rspModel :
    testSeqAfter (.rspModel 0x79) (testSeq .awaitModelRead false .seqAlone) =
      (.awaitTransitionWrite, false, [.cmdWrite 0x10]) := by decide

theorem test_rspNull :
    testSeqAfter .rspNull (testSeq .awaitTransitionRead false .seqAlone) =
      (.awaitTransitionWrite, false, [.cmdWrite 0x10]) := by decide

theorem test_rspKeypadPending :
    testSeqAfter .rspKeypadPending (testSeq .awaitTransitionRead false .seqAlone) =
      (.awaitInstantWrite, true, [.cmdWrite 0x14]) := by decide

theorem test_rspTransition :
    testSeqAfter (.rspTransition true 0x41) (testSeq .awaitTransitionRead false .seqAlone) =
      (.awaitTransitionWrite, false, [.key 0xc1 false, .cmdWrite 0x10]) := by decide

theorem test_rspInstant :
    testSeqAfter (.rspInstant false 0x0d) (testSeq .awaitInstantRead true .seqAlone) =
      (.awaitTransitionWrite, false, [.key 0x0d true, .cmdWrite 0x10]) := by decide

/-! ### The events -/

/-- V95. -/
theorem test_reset :
    testAfter .reset (testTop (testWriting 0xa5 4 .low) .awaitInstantRead true) = State.reset := by decide

/-- V40. -/
theorem test_start_seqAlone :
    testSeqAfter .start (testSeq .stopped false .seqAlone) = (.awaitModelWrite, false, [.cmdWrite 0x16]) := by decide

/-- The worked example of R141. -/
theorem test_start_top : (testAfter .start State.reset).eng = testWriting 0x16 0 .low := by decide

/-- V20: the third and the fourth TICK at N = 3. -/
theorem test_tick_threshold :
    (engTick 3 { testReading 0 0 with idleTicks := 2 }).status = .inProgress ∧
      engTick 3 { testReading 0 0 with idleTicks := 3 } =
        { testReading 0 0 with status := .completedFailed, idleTicks := 4, edgeSense := .off } := by decide

/-- V33: the re-arm at N = 1. -/
theorem test_tick_rearm : engTick 1 engArmedRead = { testReading 0 0 with idleTicks := 1 } := by decide

/-- The worked example of R126. -/
theorem test_poll_read :
    (testAfter .poll (testEng (testDone (testReading 0x7b 8)) .engAlone)).emits = [.doneRead 0 0x7b] ∧
      (testAfter .poll (testEng (testDone (testReading 0x7b 8)) .engAlone)).eng.status = .idle := by decide

/-- V21. -/
theorem test_poll_failedWrite :
    (testAfter .poll (testEng (testFailed (engArmedWrite 0x16)) .engAlone)).emits = [.doneWrite 1] := by decide

/-- V13, first FALL, and V14, the sixth. -/
theorem test_fall_read :
    (engFall true (testReading 0 0)).buf = 0x80 ∧ (engFall true (testReading 0xa0 5)).buf = 0xa4 := by decide

/-- V11: the eighth edge of a write of `0xa5`. -/
theorem test_fall_write : engFall false (testWriting 0xa5 7 .low) = testWriting 0xa5 8 .released := by decide

/-- The worked example of R113. -/
theorem test_rise :
    engRise (testWriting 0x16 8 .low) =
      { testWriting 0x16 8 .released with status := .completedOk, edgeSense := .off } := by decide

/-- A RISE before the eighth falling edge is not sensed (V10). -/
theorem test_rise_unsensed : engRise (testWriting 0xa5 1 .released) = testWriting 0xa5 1 .released := by decide

/-- The worked example of R102. -/
theorem test_beginRead :
    (testAfter .beginRead (testIdle .engAlone)).eng =
      { dir := .read, buf := 0, nbits := 0, status := .inProgress, idleTicks := 0, pending := .pendingRead,
        edgeSense := .off, rearmWait := true, dataDrive := .released } := by decide

/-- V31. -/
theorem test_beginRead_refused : exec .beginRead (testEng engArmedRead .engAlone) = .refused .transferNotIdle := rfl

/-- The worked example of R106. -/
theorem test_beginWrite :
    (testAfter (.beginWrite 0x16) (testIdle .engAlone)).eng =
      { dir := .write, buf := 0x16, nbits := 0, status := .inProgress, idleTicks := 0, pending := .pendingWrite,
        edgeSense := .falling, rearmWait := false, dataDrive := .low } := by decide

/-! ### The completion rows -/

/-- V67. -/
theorem test_tBadState :
    exec (.tBadStateStopped false 0) (testSeq .stopped false .seqAlone) = .refused .badState ∧
      exec (.tBadStateCode7 true 1) (testSeq .stopped false .seqAlone) = .refused .badState := ⟨rfl, rfl⟩

/-- V63. -/
theorem test_tFail_sentinel :
    testSeqAfter (.tFail .awaitTransitionRead 0x79) (testSeq .awaitTransitionRead false .seqAlone) =
      (.awaitModelWrite, false, [.cmdWrite 0x16]) := by decide

/-- V65. -/
theorem test_tFail_instant :
    testSeqAfter (.tFail .awaitInstantRead 0x40) (testSeq .awaitInstantRead true .seqAlone) =
      (.awaitModelWrite, false, [.cmdWrite 0x16]) := by decide

/-- V41. -/
theorem test_tModelW :
    testSeqAfter (.tModelW 0) (testSeq .awaitModelWrite false .seqAlone) = (.awaitModelRead, false, [.cmdRead]) := by
  decide

/-- V44. -/
theorem test_tModelR :
    testSeqAfter (.tModelR 0x79) (testSeq .awaitModelRead false .seqAlone) =
      (.awaitTransitionWrite, false, [.cmdWrite 0x10]) := by decide

/-- V45. -/
theorem test_tTransW :
    testSeqAfter (.tTransW 0) (testSeq .awaitTransitionWrite false .seqAlone) =
      (.awaitTransitionRead, false, [.cmdRead]) := by decide

/-- V47. -/
theorem test_tTransRKeypad :
    testSeqAfter .tTransRKeypad (testSeq .awaitTransitionRead false .seqAlone) =
      (.awaitInstantWrite, true, [.cmdWrite 0x14]) := by decide

/-- V46. -/
theorem test_tTransRNull :
    testSeqAfter .tTransRNull (testSeq .awaitTransitionRead false .seqAlone) =
      (.awaitTransitionWrite, false, [.cmdWrite 0x10]) := by decide

/-- V50. -/
theorem test_tTransRKey :
    testSeqAfter (.tTransRKey 0xfb) (testSeq .awaitTransitionRead false .seqAlone) =
      (.awaitTransitionWrite, false, [.key 0xfb false, .cmdWrite 0x10]) := by decide

/-- V54. -/
theorem test_tInstW :
    testSeqAfter (.tInstW 0) (testSeq .awaitInstantWrite true .seqAlone) = (.awaitInstantRead, true, [.cmdRead]) := by
  decide

/-- V56. -/
theorem test_tInstR :
    testSeqAfter (.tInstR 0x7b) (testSeq .awaitInstantRead true .seqAlone) =
      (.awaitTransitionWrite, false, [.key 0x7b true, .cmdWrite 0x10]) := by decide

/-! ### Steps through the port -/

/-- V66: any non-zero result is a failure; `Done` at SEQ alone. -/
theorem test_step_done :
    step { testSeq .awaitTransitionRead false .seqAlone with port := [.done .read 255 0x41] } =
      .next { testSeq .awaitModelWrite false .seqAlone with emits := [.cmdWrite 0x16] } := rfl

/-- A read completion in an Await...Write state is refused (R142). -/
theorem test_step_done_wrongKind :
    step { testSeq .awaitModelWrite false .seqAlone with port := [.done .read 0 0] } = .refused .kindDisagrees := rfl

/-- V87 in TOP, V81 in ENG alone, V91 (R87). -/
theorem test_step_refusals :
    step { testIdle .top with port := [.event 0x600] } = .refused .notAccepted ∧
      step { testIdle .engAlone with port := [.event 0x100] } = .refused .notAccepted ∧
      step { testIdle .top with port := [.event 0x201] } = .refused (.undecodable .reservedEventWord) :=
  ⟨rfl, rfl, rfl⟩

/-- SEQ alone takes no event words (R87), START and RESET included; it is started by an input that is none (V40). -/
theorem test_step_seqAlone :
    step { testIdle .seqAlone with port := [.event 0x100] } = .refused .notAccepted ∧
      step { testIdle .seqAlone with port := [.event 0x000] } = .refused .notAccepted ∧
      step { testIdle .seqAlone with port := [.startSeq] } =
        .next { testSeq .awaitModelWrite false .seqAlone with emits := [.cmdWrite 0x16] } := ⟨rfl, rfl, rfl⟩

/-- A table word placed on the port is the next instruction. -/
theorem test_withFetchWord_start : step (State.reset.withFetchWord 16 0x100) = exec .start State.reset := rfl

theorem test_withFetchWord_completion :
    step (State.reset.withFetchWord 16 0x841) =
      .next { testSeq .awaitTransitionWrite false .seqAlone with emits := [.key 0x41 false, .cmdWrite 0x10] } := rfl

/-- In TOP only the key events leave the block (R33). -/
theorem test_outputs :
    { State.reset with emits := [.doneRead 0 0x41, .key 0x41 false, .cmdWrite 0x10] }.outputs = [.key 0x41 false] := rfl

/-- The trace syntax (R90). -/
theorem test_traceText :
    traceLine (.beginWrite 0x16) = some "BEGIN_WRITE 0x16" ∧ traceLine (.fall true) = some "FALL 1" ∧
      outputText (.key 0x41 false) = "Key(0x41, keypad=0)" ∧
      outputText (.doneRead 0 0x7b) = "Done(read, 0, 0x7b)" := by decide

/-! ### Witnesses: for each statement with hypotheses, states and operands that meet them -/

theorem test_timeout_pos : 1 ≤ Config.timeoutTicks := by simp [Config.timeoutTicks]

/-- TOP just started, by START from the reset state (R141): it has the invariant. -/
def testStarted : State := testTop (engArmedWrite 0x16) .awaitModelWrite false

theorem test_started_inv : StateInv testStarted := by
  refine ⟨?_, fun _ => ?_, fun h => ?_, fun h => ?_⟩
  · constructor <;> simp [testStarted, testTop, engArmedWrite]
  · constructor <;> simp [testStarted, testTop, engArmedWrite, commandInFlight, awaitedKind, inInstant]
  · cases h
  · cases h

/-- TOP after reset, with START presented: it has the invariant. -/
def testStarting : State := { State.reset with port := [.event 0x100] }

theorem test_starting_inv : StateInv testStarting := by
  refine ⟨?_, fun _ => ?_, fun h => ?_, fun h => ?_⟩
  · constructor <;> simp [testStarting, State.reset, Eng.reset]
  · constructor <;> simp [testStarting, State.reset, Eng.reset, Seq.reset, commandInFlight, awaitedKind, inInstant]
  · cases h
  · cases h

/-- BeginReadArmsARead: from idle, in progress, and the one transition that turns `rearm_wait` on. -/
theorem witness_BeginReadArmsARead :
    (testIdle .engAlone).eng.status = .idle ∧ (testEng engArmedRead .engAlone).eng.status ≠ .idle ∧
      exec .beginRead (testIdle .engAlone) = .next (testEng engArmedRead .engAlone) ∧
      (testIdle .engAlone).eng.rearmWait = false ∧ (testEng engArmedRead .engAlone).eng.rearmWait = true := by
  refine ⟨rfl, by decide, rfl, rfl, rfl⟩

/-- BeginWriteArmsAWrite: from idle, and a completion not yet delivered. -/
theorem witness_BeginWriteArmsAWrite :
    (testIdle .engAlone).eng.status = .idle ∧ (testEng (testDone engArmedRead) .engAlone).eng.status ≠ .idle := by decide

/-- FallTransfersTheNextBit: the first and the eighth bit, of a read and of a write. -/
theorem witness_FallTransfersTheNextBit :
    ∀ e ∈ [testReading 0 0, testReading 0xfe 7, testWriting 0xa5 0 .low, testWriting 0xa5 7 .low],
      e.status = .inProgress ∧ e.edgeSense = .falling ∧ e.nbits ≤ 7 := by decide

/-- FallTransfersTheNextBit: both directions occur, the invariant holds there, and an edge that is not sensed. -/
theorem witness_FallTransfersTheNextBit_directions :
    (testReading 0xfe 7).dir = .read ∧ (testWriting 0xa5 7 .low).dir = .write ∧ EngInv 3 (testReading 0xfe 7) ∧
      ¬ (engArmedRead.status = .inProgress ∧ engArmedRead.edgeSense = .falling) := by
  refine ⟨rfl, rfl, ?_, by decide⟩
  constructor <;> decide

/-- UnsensedEdgesChangeNothing and EventsWithNoEffectAreIdentitySteps: idle; the re-arm wait; a ninth falling edge; a
rising edge between bits; a completed transfer. -/
theorem witness_UnsensedEdgesChangeNothing :
    (∀ e ∈ [Eng.reset, engArmedRead, testReading 0xff 8, testDone engArmedRead],
      ¬ (e.status = .inProgress ∧ e.edgeSense = .falling)) ∧
      (∀ e ∈ [Eng.reset, engArmedRead, testReading 0x80 1, testDone engArmedRead],
        ¬ (e.status = .inProgress ∧ e.edgeSense = .rising)) := by decide

theorem witness_EventsWithNoEffectAreIdentitySteps :
    (∀ e ∈ [Eng.reset, testDone engArmedRead, testFailed engArmedRead], e.status ≠ .inProgress) ∧
      (∀ e ∈ [Eng.reset, engArmedRead], e.status = .idle ∨ e.status = .inProgress) ∧
      (¬ (Eng.reset.status = .inProgress ∧ Eng.reset.edgeSense = .falling)) ∧
      (¬ (Eng.reset.status = .inProgress ∧ Eng.reset.edgeSense = .rising)) := by decide

/-- RiseMarksCompletion: all bits out, and the states in which it is not sensed. -/
theorem witness_RiseMarksCompletion :
    (testWriting 0x16 8 .low).status = .inProgress ∧ (testWriting 0x16 8 .low).edgeSense = .rising ∧
      EngInv 3 (testWriting 0x16 8 .low) ∧
      ¬ ((testWriting 0x16 7 .low).status = .inProgress ∧ (testWriting 0x16 7 .low).edgeSense = .rising) := by
  refine ⟨rfl, rfl, ?_, by decide⟩
  constructor <;> decide

/-- TickRearmsCountsAndTests: the first and the last TICK of the window, the TICK past it, and outside a transfer. -/
theorem witness_TickRearmsCountsAndTests :
    engArmedRead.status = .inProgress ∧ engArmedRead.idleTicks + 1 ≤ Config.timeoutTicks ∧
      ({ engArmedRead with idleTicks := Config.timeoutTicks - 1 } : Eng).idleTicks + 1 ≤ Config.timeoutTicks ∧
      Config.timeoutTicks < ({ engArmedRead with idleTicks := Config.timeoutTicks } : Eng).idleTicks + 1 ∧
      Eng.reset.status ≠ .inProgress ∧ (testEng engArmedRead .engAlone).eng = engArmedRead := by
  have := test_timeout_pos
  refine ⟨rfl, this, ?_, ?_, by decide, rfl⟩ <;> simp only <;> omega

theorem test_filter_ticks (n : Nat) (l : List Instr) :
    (List.replicate n Instr.tick ++ l).filter isEdge = l.filter isEdge := by
  simp [List.filter_append, isEdge]

theorem test_ticksIn_ticks (n : Nat) (l : List Instr) :
    ticksIn (List.replicate n .tick ++ l) = n + ticksIn l := by
  simp [ticksIn, List.countP_append, List.countP_replicate]

/-- Ticks alone never complete a transfer. -/
theorem test_ticks_never_complete (n : Nat) (s u : State) (h : s.eng.status ≠ .completedOk)
    (hr : runTrace (List.replicate n .tick) s = .next u) : u.eng.status ≠ .completedOk := by
  induction n generalizing s with
  | zero =>
    have : s = u := by simpa [runTrace] using hr
    exact this ▸ h
  | succ n ih =>
    refine ih (s.setEng (engTick Config.timeoutTicks s.eng)) ?_ hr
    by_cases h1 : s.eng.status = .inProgress
    · by_cases hn : s.eng.idleTicks + 1 ≤ Config.timeoutTicks
      · simp [engTick_counts _ _ h1 hn, h1]
      · simp [engTick_fails Config.timeoutTicks _ h1 (by omega)]
    · simpa [engTick_outside _ _ h1] using h

/-- TheTickPastTheThresholdFails: TIMEOUT_TICKS TICKs after a write has been armed. -/
theorem witness_TheTickPastTheThresholdFails :
    let s := testEng (engArmedWrite 0x16) .engAlone
    let trace := List.replicate Config.timeoutTicks Instr.tick
    s.eng.status = .inProgress ∧ s.eng.idleTicks = 0 ∧ (∀ i ∈ trace, i = .tick ∨ i = .poll ∨ isEdge i = true) ∧
      (∀ p q u, trace = p ++ q → runTrace p s = .next u → u.eng.status ≠ .completedOk) ∧
      ticksIn trace = Config.timeoutTicks := by
  refine ⟨rfl, rfl, fun i hi => .inl (List.eq_of_mem_replicate hi), fun p q u hp hr => ?_, ?_⟩
  · obtain ⟨k, _, rfl⟩ : ∃ k, k = p.length ∧ p = List.replicate k .tick := by
      refine ⟨p.length, rfl, List.eq_replicate_of_mem fun i hi => ?_⟩
      have : i ∈ List.replicate Config.timeoutTicks Instr.tick := by rw [hp]; simp [hi]
      exact List.eq_of_mem_replicate this
    exact test_ticks_never_complete k _ u (by decide) hr
  · simpa [ticksIn] using test_ticksIn_ticks Config.timeoutTicks []

/-- OnlyTickFailsATransfer: the TICK past the window. -/
theorem witness_OnlyTickFailsATransfer :
    let s := testEng { engArmedWrite 0x16 with idleTicks := Config.timeoutTicks } .engAlone
    ∃ t, exec .tick s = .next t ∧ s.eng.status ≠ .completedFailed ∧ t.eng.status = .completedFailed := by
  refine ⟨_, rfl, by decide, ?_⟩
  rw [State.setEng_eng, engTick_fails _ _ rfl (by simp [testEng])]

/-- PollTakesTheCompletion: the four finished transfers. -/
theorem witness_PollTakesTheCompletion :
    (testIdle .engAlone).conf ≠ .top ∧
      ((testDone (testReading 0xa5 8)).status = .completedOk ∧ (testDone (testReading 0xa5 8)).pending = .pendingRead) ∧
      ((testDone (engArmedWrite 0x16)).status = .completedOk ∧ (testDone (engArmedWrite 0x16)).pending = .pendingWrite) ∧
      ((testFailed engArmedRead).status = .completedFailed ∧ (testFailed engArmedRead).pending = .pendingRead) ∧
      ((testFailed (engArmedWrite 0x16)).status = .completedFailed ∧
        (testFailed (engArmedWrite 0x16)).pending = .pendingWrite) := by decide

/-- PollInTopRunsTheCompletionRow: a transition byte, a command written, and each of the two failures. -/
theorem witness_PollInTopRunsTheCompletionRow :
    (testTop (testDone (testReading 0x41 8)) .awaitTransitionRead false).conf = .top ∧
      ((testDone (testReading 0x41 8)).status = .completedOk ∧ (testDone (testReading 0x41 8)).pending = .pendingRead ∧
        awaitedKind .awaitTransitionRead = some .read) ∧
      ((testDone (engArmedWrite 0x10)).status = .completedOk ∧ (testDone (engArmedWrite 0x10)).pending = .pendingWrite ∧
        awaitedKind .awaitTransitionWrite = some .write) ∧
      ((testFailed engArmedRead).status = .completedFailed ∧ (testFailed engArmedRead).pending = .pendingRead ∧
        awaitedKind .awaitInstantRead = some .read) ∧
      ((testFailed (engArmedWrite 0x14)).status = .completedFailed ∧
        (testFailed (engArmedWrite 0x14)).pending = .pendingWrite ∧
        awaitedKind .awaitInstantWrite = some .write) := by decide

/-- PollInUnreachedStates: nothing pending; a stopped SEQ; a read for a write state; a write for a read state. -/
theorem witness_PollInUnreachedStates :
    ({ testDone engArmedRead with pending := .none } : Eng).status = .completedOk ∧
      ({ testDone engArmedRead with pending := .none } : Eng).pending = .none ∧
      (testTop (testDone engArmedRead) .stopped false).conf = .top ∧ (testDone engArmedRead).pending = .pendingRead ∧
      awaitedKind .awaitModelWrite = some .write ∧ (testDone (engArmedWrite 0)).pending = .pendingWrite ∧
      awaitedKind .awaitModelRead = some .read := by decide

/-- StartIssuesTheModelQuery: SEQ alone, TOP, the invariant, and a second START. -/
theorem witness_StartIssuesTheModelQuery :
    ((testIdle .seqAlone).conf ≠ .top ∧ (testIdle .seqAlone).seq.state = .stopped) ∧
      (StateInv testStarting ∧ testStarting.conf = .top ∧ testStarting.seq.state = .stopped ∧
        testStarting.eng.status = .idle) ∧
      testStarted.seq.state ≠ .stopped :=
  ⟨by decide, ⟨test_starting_inv, by decide⟩, by decide⟩

/-- CommandRowsIssueTheirByte: ENG alone idle, and SEQ after each read, alone and in TOP with ENG idle. -/
theorem witness_CommandRowsIssueTheirByte :
    ((testIdle .engAlone).conf = .engAlone ∧ (testIdle .engAlone).eng.status = .idle) ∧
      (∀ st ∈ [SeqState.awaitModelRead, .awaitTransitionRead, .awaitInstantRead],
        (testSeq st false .seqAlone).conf = .seqAlone ∧ (testSeq st false .seqAlone).seq.state = st ∧
          (testSeq st false .top).conf = .top ∧ (testSeq st false .top).eng.status = .idle) := by decide

theorem witness_WriteRowsArmTheReply :
    ((SeqState.awaitInstantWrite, SeqState.awaitInstantRead, Instr.tInstW 0) ∈
      [(.awaitModelWrite, .awaitModelRead, .tModelW 0), (.awaitTransitionWrite, .awaitTransitionRead, .tTransW 0),
       (.awaitInstantWrite, .awaitInstantRead, .tInstW 0)]) ∧
      (testSeq .awaitInstantWrite true .seqAlone).seq.state = .awaitInstantWrite ∧
      (testSeq .awaitInstantWrite true .seqAlone).conf ≠ .top ∧
      (testSeq .awaitInstantWrite true .top).conf = .top ∧
      (testSeq .awaitInstantWrite true .top).eng.status = .idle := by decide

theorem witness_ModelByteIsDiscarded :
    (testSeq .awaitModelRead false .seqAlone).seq.state = .awaitModelRead ∧
      (testSeq .awaitModelRead false .seqAlone).conf ≠ .top ∧ (testSeq .awaitModelRead false .top).conf = .top ∧
      (testSeq .awaitModelRead false .top).eng.status = .idle := by decide

/-- KeypadSentinelAsksForTheInstant and NullSentinelAsksAgain. -/
theorem witness_Sentinels :
    (testSeq .awaitTransitionRead false .seqAlone).seq.state = .awaitTransitionRead ∧
      (testSeq .awaitTransitionRead false .seqAlone).conf ≠ .top ∧
      (testSeq .awaitTransitionRead false .top).conf = .top ∧
      (testSeq .awaitTransitionRead false .top).eng.status = .idle := by decide

/-- TransitionByteIsHandedOn: the byte below a sentinel, and the key-up twin of a sentinel. -/
theorem witness_TransitionByteIsHandedOn :
    ((testSeq .awaitTransitionRead false .top).seq.state = .awaitTransitionRead ∧
      (testSeq .awaitTransitionRead false .top).conf = .top ∧
      (testSeq .awaitTransitionRead false .top).eng.status = .idle ∧
      (testSeq .awaitTransitionRead false .seqAlone).conf ≠ .top) ∧
      ((0x78 : Byte) ≠ 0x79 ∧ (0x78 : Byte) ≠ 0x7b) ∧ ((0xfb : Byte) ≠ 0x79 ∧ (0xfb : Byte) ≠ 0x7b) := by decide

/-- ResponseClassesHaveTheEffectOfTheirRow: SEQ in each state that awaits a read, alone and in TOP with ENG idle, and
bytes beside the sentinels. -/
theorem witness_ResponseClassesHaveTheEffectOfTheirRow :
    ((testSeq .awaitModelRead false .seqAlone).conf ≠ .top ∧
      (testSeq .awaitModelRead false .seqAlone).seq.state = .awaitModelRead) ∧
      ((testSeq .awaitTransitionRead false .top).conf = .top ∧
        (testSeq .awaitTransitionRead false .top).eng.status = .idle ∧
        (testSeq .awaitTransitionRead false .top).seq.state = .awaitTransitionRead) ∧
      (testSeq .awaitInstantRead true .seqAlone).seq.state = .awaitInstantRead ∧
      (responseByte false 0x78 ≠ 0x79 ∧ responseByte false 0x78 ≠ 0x7b) ∧
      (responseByte true 0x7b ≠ 0x79 ∧ responseByte true 0x7b ≠ 0x7b) :=
  ⟨by decide, by decide, by decide, by decide, by decide⟩

theorem witness_InstantByteIsHandedOnAndTheFlagCleared :
    (testSeq .awaitInstantRead true .seqAlone).seq.state = .awaitInstantRead ∧
      (testSeq .awaitInstantRead true .seqAlone).conf ≠ .top ∧ (testSeq .awaitInstantRead true .top).conf = .top ∧
      (testSeq .awaitInstantRead true .top).eng.status = .idle := by decide

theorem witness_AnyFailureRestarts :
    (testSeq .awaitInstantRead true .seqAlone).seq.state ≠ .stopped ∧
      (testSeq .awaitInstantRead true .seqAlone).conf ≠ .top ∧ (testSeq .awaitInstantRead true .top).conf = .top ∧
      (testSeq .awaitInstantRead true .top).eng.status = .idle := by decide

theorem witness_BadStateCompletionsAreRefused :
    StateInv testStarting ∧ testStarting.conf = .top ∧ testStarting.seq.state = .stopped :=
  ⟨test_starting_inv, by decide⟩

/-- RowsOutOfTheirStateAreRefused: a stopped SEQ is out of every row's state. -/
theorem witness_RowsOutOfTheirStateAreRefused :
    SeqState.stopped ≠ .awaitModelWrite ∧ SeqState.stopped ≠ .awaitModelRead ∧
      SeqState.stopped ≠ .awaitTransitionWrite ∧ SeqState.stopped ≠ .awaitTransitionRead ∧
      SeqState.stopped ≠ .awaitInstantWrite ∧ SeqState.stopped ≠ .awaitInstantRead ∧
      (testSeq .stopped false .seqAlone).seq.state = .stopped := by decide

/-- DoneSelectsOneRow: of the wrong kind, of the right kind, and for a stopped SEQ. -/
theorem witness_DoneSelectsOneRow :
    (testSeq .awaitModelWrite false .seqAlone).conf = .seqAlone ∧
      ({ testSeq .awaitModelWrite false .seqAlone with port := [.done .read 0 0] } : State).port =
        .done .read 0 0 :: [] ∧
      (SeqState.awaitModelWrite ≠ .stopped ∧ awaitedKind .awaitModelWrite ≠ some .read) ∧
      awaitedKind .awaitModelWrite = some .write ∧ (testSeq .stopped false .seqAlone).seq.state = .stopped := by decide

theorem witness_DecodeOfEncodeIsTheInstruction :
    (Instr.rspTransition true 0x79).wellFormed = true ∧ (Instr.tTransRKey 0xfb).wellFormed = true ∧
      (Instr.tFail .awaitInstantRead 0xff).wellFormed = true := by decide

theorem witness_EncodeOfDecodeIsTheWord :
    decode .cw12 0xfff = .ok (.tBadStateCode7 true 0xff) ∧ decode .ev11 0x401 = .ok (.fall true) := by decide

/-- CompletionMapIsTheTable: a word under each clause. -/
theorem witness_CompletionMapIsTheTable :
    [(0x1ff : CompletionWord), 0xe00, 0x300, 0x200, 0x4ff, 0x600, 0x879, 0x87b, 0x878, 0xaff, 0xc00].map
        (fun w => (w.extractLsb' 9 3, w.getLsbD 8, (w.extractLsb' 0 8 : Byte))) =
      [(0, true, 0xff), (7, false, 0), (1, true, 0), (1, false, 0), (2, false, 0xff), (3, false, 0), (4, false, 0x79),
       (4, false, 0x7b), (4, false, 0x78), (5, false, 0xff), (6, false, 0)] := by decide

/-- ReservedEventWordsAreRefused: a word the decoder refuses. -/
theorem witness_ReservedEventWordsAreRefused : decodeEV11 0x001 = .error .reservedEventWord := by decide

/-- StepRunsTheDecodedInstruction: nothing presented, an accepted event, one that is not accepted, a reserved word. -/
theorem witness_StepRunsTheDecodedInstruction :
    State.reset.port = [] ∧ testStarting.port = .event 0x100 :: [] ∧
      decodeItem testStarting.seq.state (.event 0x100) = .ok .start ∧ acceptsInput testStarting.conf (.event 0x100) .start = true ∧
      decodeItem .stopped (.event 0x600) = .ok .beginRead ∧ acceptsInput .top (.event 0x600) .beginRead = false ∧
      decodeItem .stopped (.event 0x201) = .error (.undecodable .reservedEventWord) := by
  refine ⟨rfl, rfl, rfl, rfl, rfl, rfl, rfl⟩

/-- PortsAcceptTheInputsOfTheirConfiguration: event words of the kinds that are refused somewhere, a command byte, and
each input of SEQ alone that is no event word. -/
theorem witness_PortsAcceptTheInputsOfTheirConfiguration :
    (decodeEV11 0x100 = .ok .start ∧ decodeEV11 0x500 = .ok .rise ∧ decodeEV11 0x600 = .ok .beginRead ∧
      decodeEV11 0x700 = .ok (.beginWrite 0)) ∧
      decodeItem .stopped (.command 0x16) = .ok .queryModel ∧
      decodeItem .awaitModelRead (.response 0xff) = .ok (.rspModel 0xff) ∧
      decodeItem .awaitModelWrite (.completion 0x200) = .ok (.tModelW 0) ∧
      decodeItem .awaitModelWrite (.done .write 0 0) = .ok (.tModelW 0) ∧
      decodeItem .stopped .startSeq = .ok .start ∧ decodeItem .stopped .resetSeq = .ok .reset ∧
      ({ testIdle .seqAlone with port := [.startSeq] } : State).port = .startSeq :: [] ∧
      ({ testIdle .seqAlone with port := [.resetSeq] } : State).port = .resetSeq :: [] ∧
      ({ testIdle .seqAlone with port := [.event 0x100] } : State).port = .event 0x100 :: [] ∧
      (testIdle .seqAlone).conf = .seqAlone := by
  refine ⟨by decide, rfl, rfl, rfl, rfl, rfl, rfl, rfl, rfl, rfl, rfl⟩

/-- EveryStepKeepsTheInvariant, EngineInvariantsArePreserved, NoStepChangesTheConfiguration: START from the reset state. -/
theorem witness_EveryStepKeepsTheInvariant :
    StateInv testStarting ∧ step testStarting = .next { testStarted with emits := [.cmdWrite 0x16] } :=
  ⟨test_starting_inv, rfl⟩

theorem witness_EngineInvariantsArePreserved :
    EngInv Config.timeoutTicks testStarting.eng ∧
      exec .start testStarting = .next { testStarted with emits := [.cmdWrite 0x16], port := [.event 0x100] } :=
  ⟨test_starting_inv.eng, rfl⟩

/-- TopNeverStops: START presented to the reset state is within the environment's duty. -/
theorem witness_TopNeverStops : StateInv testStarting ∧ testStarting.conf = .top ∧ TopDuty testStarting := by
  refine ⟨test_starting_inv, rfl, fun item rest h => ?_⟩
  obtain ⟨rfl, rfl⟩ : PortItem.event 0x100 = item ∧ [] = rest := by simpa [testStarting] using h
  exact ⟨0x100, .start, rfl, by decide, by decide, fun _ => by decide⟩

/-- EngineEventsAreTotal: POLL alone and in a started TOP, a BEGIN from idle and one that is refused. -/
theorem witness_EngineEventsAreTotal :
    isEdge (.fall true) = true ∧ (testIdle .engAlone).conf ≠ .top ∧ StateInv testStarted ∧ testStarted.conf = .top ∧
      (testIdle .engAlone).eng.status = .idle ∧ testStarted.eng.status ≠ .idle :=
  ⟨rfl, by decide, test_started_inv, rfl, rfl, by decide⟩

/-- StatusMakesOnlyTheListedTransitions, OneDonePerCompletion: POLL of a finished read. -/
theorem witness_StatusMakesOnlyTheListedTransitions :
    exec .poll (testEng (testDone (testReading 0x41 8)) .engAlone) =
      .next { testEng (engTaken (testDone (testReading 0x41 8))) .engAlone with emits := [.doneRead 0 0x41] } := rfl

/-- OnlyBeginAndTickChangeTheCounter: a transfer armed after one that had counted. -/
theorem witness_OnlyBeginAndTickChangeTheCounter :
    let s := testEng { Eng.reset with idleTicks := 3 } .engAlone
    exec .beginRead s = .next (testEng engArmedRead .engAlone) ∧
      (testEng engArmedRead .engAlone).eng.idleTicks ≠ s.eng.idleTicks := ⟨rfl, by decide⟩

theorem witness_EdgeEventsNeverRunACallback :
    contextOf (.fall true) = .interrupt ∧ contextOf .rise = .interrupt := by decide

theorem witness_OneDonePerCompletion :
    exec .poll (testEng (testFailed (engArmedWrite 0x10)) .engAlone) =
      .next { testEng (engTaken (testFailed (engArmedWrite 0x10))) .engAlone with emits := [.doneWrite 1] } := rfl

/-- KeysOfAPollInTop: POLL of a key transition in TOP. -/
theorem witness_KeysOfAPollInTop :
    (testTop (testDone (testReading 0x41 8)) .awaitTransitionRead false).conf = .top ∧
      exec .poll (testTop (testDone (testReading 0x41 8)) .awaitTransitionRead false) =
        .next { testTop (engArmedWrite 0x10) .awaitTransitionWrite false with
                emits := [.doneRead 0 0x41, .key 0x41 false, .cmdWrite 0x10] } := ⟨rfl, rfl⟩

/-- SequencerFollowsTheStateGraph, EveryChangeOfStateEmitsItsCmd: a command written. -/
theorem witness_SequencerFollowsTheStateGraph :
    exec (.tModelW 0) (testSeq .awaitModelWrite false .seqAlone) =
      .next { testSeq .awaitModelRead false .seqAlone with emits := [.cmdRead] } := rfl

theorem witness_EveryChangeOfStateEmitsItsCmd :
    exec (.tModelW 0) (testSeq .awaitModelWrite false .seqAlone) =
        .next { testSeq .awaitModelRead false .seqAlone with emits := [.cmdRead] } ∧
      Instr.tModelW 0 ≠ .reset ∧ SeqState.awaitModelRead ≠ .awaitModelWrite := ⟨rfl, by decide, by decide⟩

/-- SequencerDependsOnTheCompletionOnly: two sequencers that differ in what was emitted before and in the result code. -/
theorem witness_SequencerDependsOnTheCompletionOnly :
    let s : State := { testSeq .awaitInstantRead true .seqAlone with port := [.done .read 1 0x0d] }
    let u : State := { testSeq .awaitInstantRead true .seqAlone with port := [.done .read 255 0x0d], emits := [.cmdRead] }
    s.conf = .seqAlone ∧ u.conf = .seqAlone ∧ s.seq.state = u.seq.state ∧
      s.seq.kpPending = inInstant s.seq.state ∧ u.seq.kpPending = inInstant u.seq.state ∧
      ((1 : Byte) = 0 ↔ (255 : Byte) = 0) ∧ s.port = .done .read 1 0x0d :: [] ∧ u.port = .done .read 255 0x0d :: [] ∧
      step s = .next { testSeq .awaitModelWrite false .seqAlone with emits := [.cmdWrite 0x16] } ∧
      step u = .next { testSeq .awaitModelWrite false .seqAlone with emits := [.cmdRead, .cmdWrite 0x16] } := by
  refine ⟨rfl, rfl, rfl, rfl, rfl, by decide, rfl, rfl, rfl, rfl⟩

/-- TicksAndEdgesChangeNothingOfAFinishedTransfer: a completed and a failed transfer, a trace of a TICK and both edges. -/
theorem witness_TicksAndEdgesChangeNothingOfAFinishedTransfer :
    (testDone engArmedRead).status = .completedOk ∧ (testFailed engArmedRead).status = .completedFailed ∧
      (∀ i ∈ [Instr.tick, .fall true, .rise], i = .tick ∨ isEdge i = true) := by decide

/-- TheLineIsPulledOnlyDuringAWrite: a write just armed, and the level a FALL then carries. -/
theorem witness_TheLineIsPulledOnlyDuringAWrite :
    StateInv testStarted ∧ testStarted.eng.dataDrive = .low ∧ FallDuty testStarted false :=
  ⟨test_started_inv, rfl, ⟨true, rfl⟩⟩

theorem witness_NoStepChangesTheConfiguration :
    step testStarting = .next { testStarted with emits := [.cmdWrite 0x16] } := rfl

/-- WriteRoundTrip: TIMEOUT_TICKS TICKs, then eight pulses. -/
theorem witness_WriteRoundTrip :
    let ds := List.replicate 8 true
    let body := List.replicate Config.timeoutTicks Instr.tick ++ (pulses ds).dropLast
    (testIdle .engAlone).eng.status = .idle ∧ ds.length = 8 ∧ Interleaves (body ++ [.rise]) (pulses ds) ∧
      ticksIn body ≤ Config.timeoutTicks ∧ (testIdle .engAlone).conf ≠ .top ∧
      body = List.replicate Config.timeoutTicks Instr.tick ++ .fall true :: (pulses ds).dropLast.tail := by
  refine ⟨rfl, rfl, ⟨fun i hi => ?_, ?_⟩, ?_, by decide, rfl⟩
  · rw [List.append_assoc] at hi
    rcases List.mem_append.1 hi with h | h
    · exact .inl (List.eq_of_mem_replicate h)
    · exact .inr (.inr ((by decide : ∀ i ∈ (pulses (List.replicate 8 true)).dropLast ++ [Instr.rise], isEdge i = true) i h))
  · rw [List.append_assoc, test_filter_ticks]
    decide
  · rw [test_ticksIn_ticks]
    exact Nat.le_of_eq rfl

/-- ReadRoundTrip: TIMEOUT_TICKS - 1 TICKs after the re-arm, then the eight pulses of `0xa5`. -/
theorem witness_ReadRoundTrip :
    let body := List.replicate (Config.timeoutTicks - 1) Instr.tick ++ (macroRxByte 0xa5).dropLast
    (testIdle .engAlone).eng.status = .idle ∧ Interleaves (body ++ [.rise]) (macroRxByte 0xa5) ∧
      ticksIn body < Config.timeoutTicks ∧ (testIdle .engAlone).conf ≠ .top := by
  refine ⟨rfl, ⟨fun i hi => ?_, ?_⟩, ?_, by decide⟩
  · rw [List.append_assoc] at hi
    rcases List.mem_append.1 hi with h | h
    · exact .inl (List.eq_of_mem_replicate h)
    · exact .inr (.inr ((by decide : ∀ i ∈ (macroRxByte 0xa5).dropLast ++ [Instr.rise], isEdge i = true) i h))
  · rw [List.append_assoc, test_filter_ticks]
    decide
  · rw [test_ticksIn_ticks]
    have := test_timeout_pos
    have h0 : ticksIn (macroRxByte 0xa5).dropLast = 0 := by decide
    omega

/-- PartialReadFillsFromTheTop: no edge yet, and all eight. -/
theorem witness_PartialReadFillsFromTheTop :
    (testIdle .engAlone).eng.status = .idle ∧ ([] : List Bool).length ≤ 8 ∧ (List.replicate 8 true).length ≤ 8 := by
  decide

theorem witness_StartUpReachesTheTransitionRequest :
    State.reset.conf = .top ∧ State.reset.eng.status = .idle ∧ State.reset.seq.state = .stopped := by decide

/-- TransitionExchangeReturns (a key, and the null) and KeypadExchangeRoutesOneByte. -/
theorem witness_Exchanges :
    let s := testTop (engArmedWrite 0x10) .awaitTransitionWrite false
    s.conf = .top ∧ s.eng = engArmedWrite 0x10 ∧
      s.seq = { state := .awaitTransitionWrite, kpPending := false } ∧ (0x41 : Byte) ≠ 0x79 ∧ (0x7b : Byte) ≠ 0x79 := by
  decide

theorem witness_SilentPeerMeansRestart :
    StateInv testStarted ∧ testStarted.conf = .top ∧ testStarted.eng.status = .inProgress ∧
      testStarted.eng.idleTicks = 0 := ⟨test_started_inv, by decide⟩

end Sys2Proof.Machine
end

section
/-! PROOFS. The invariants of ENG and TOP (spec/10_state.md R24, R25, R31, R35, R36, R38). ENG: each handler keeps I1 to I7,
and one list of everything an instruction does to ENG (`EngDid`) settles what is said over all instructions. TOP: its
invariant under ENG's handlers and under SEQ's reactions, then the step lemma and progress. -/

namespace Sys2Proof.Machine

/-! ### ENG's invariant at reset, where a transfer starts, and under each handler (R35) -/

theorem engInv_reset (n : Nat) : EngInv n Eng.reset := by
  constructor <;> simp [Eng.reset]

/-- ENG as one of the two BEGINs leaves it (R102, R106). -/
def IsArmed (e : Eng) : Prop := e = engArmedRead ∨ ∃ b, e = engArmedWrite b

theorem IsArmed.status {e : Eng} (h : IsArmed e) : e.status = .inProgress := by
  rcases h with rfl | ⟨b, rfl⟩ <;> rfl

theorem IsArmed.idleTicks {e : Eng} (h : IsArmed e) : e.idleTicks = 0 := by
  rcases h with rfl | ⟨b, rfl⟩ <;> rfl

theorem IsArmed.engInv {e : Eng} (h : IsArmed e) (n : Nat) : EngInv n e := by
  rcases h with rfl | ⟨b, rfl⟩ <;> constructor <;> simp

/-- The bit count goes up by one on a sensed falling edge, and the eighth turns the sense to rising (R110): whatever
else the edge writes is the buffer of a read or the drive of a write. -/
theorem EngInv.bitTransferred {n : Nat} {e : Eng} (h : EngInv n e) (hs : fallSensed e = true) (buf : Byte)
    (drive : Drive) (hd : e.dir = .read → drive = e.dataDrive) :
    EngInv n { e with buf := buf, dataDrive := drive, nbits := e.nbits + 1,
                      edgeSense := if e.nbits = 7 then .rising else e.edgeSense } := by
  obtain ⟨hp, hf⟩ := (fallSensed_iff e).1 hs
  have hroom := h.falling_room hp hf
  have hrearm : e.rearmWait ≠ true := fun hw => by simp [(h.off_iff_rearm hp).2 hw] at hf
  exact { h with
    quiet_outside := fun ho => absurd hp ho
    off_iff_rearm := fun _ => by split <;> simp [hf, hrearm]
    off_read_empty := fun _ => by split <;> simp [hf]
    falling_room := fun _ => by split <;> simp; omega
    rising_iff_full := fun _ => by split <;> simp [*]
    nbits_le := by simp; omega
    read_released := fun _ hr => (hd hr).trans (h.read_released hp hr)
    ok_full := fun ho => by simp [hp] at ho }

theorem EngInv.fall {n : Nat} {e : Eng} (h : EngInv n e) (d : Bool) : EngInv n (engFall d e) := by
  cases hs : fallSensed e
  · rwa [engFall_unsensed d e hs]
  · cases hd : e.dir
    · rw [engFall_read d e hs hd]
      exact h.bitTransferred hs _ _ fun _ => rfl
    · rw [engFall_write d e hs hd]
      exact h.bitTransferred hs _ _ (by simp [hd])

/-- A transfer that is over: ENG quiet, and after eight bits if it is ok. -/
theorem EngInv.finished {n : Nat} {e : Eng} (h : EngInv n e) (hp : e.status = .inProgress) (status : Status)
    (hc : status = .completedOk ∧ e.nbits = 8 ∨ status = .completedFailed) {ticks : Nat} (ht : ticks ≤ n + 1) :
    EngInv n { e with status := status, edgeSense := .off, rearmWait := false, dataDrive := .released,
                      idleTicks := ticks } := by
  have hpend : e.pending ≠ .none := fun hn => by simp [h.idle_iff_no_pending.2 hn] at hp
  have hni : status ≠ .inProgress := by rcases hc with ⟨rfl, -⟩ | rfl <;> simp
  have hnd : status ≠ .idle := by rcases hc with ⟨rfl, -⟩ | rfl <;> simp
  exact { h with
    idle_iff_no_pending := by simp [hnd, hpend]
    quiet_outside := by simp
    off_iff_rearm := fun hs => absurd hs hni
    off_read_empty := fun hs => absurd hs hni
    falling_room := fun hs => absurd hs hni
    rising_iff_full := fun hs => absurd hs hni
    ticks_in_progress := fun hs => absurd hs hni
    ticks_le := ht
    read_released := by simp
    ok_full := by rcases hc with ⟨-, h8⟩ | rfl <;> simp [*] }

theorem EngInv.rise {n : Nat} {e : Eng} (h : EngInv n e) : EngInv n (engRise e) := by
  cases hs : riseSensed e
  · rwa [engRise_unsensed e hs]
  · obtain ⟨hp, hr⟩ := (riseSensed_iff e).1 hs
    have hq : e.rearmWait = false := by
      by_contra hw
      simp [(h.off_iff_rearm hp).2 (by simpa using hw)] at hr
    have hfin := h.finished hp .completedOk (.inl ⟨rfl, (h.rising_iff_full hp).1 hr⟩) h.ticks_le
    rw [engRise_sensed e hs]
    rwa [← hq] at hfin

/-- A tick within the window: a waiting read is re-armed, so falling edges are sensed from now on (R114). -/
theorem EngInv.counted {n : Nat} {e : Eng} (h : EngInv n e) (hp : e.status = .inProgress) (hn : e.idleTicks + 1 ≤ n) :
    EngInv n (engTick n e) := by
  rw [engTick_counts n e hp hn]
  cases hw : e.rearmWait
  case true =>
    obtain ⟨hdir, hbits⟩ := h.off_read_empty hp ((h.off_iff_rearm hp).2 hw)
    exact { h with
      quiet_outside := fun ho => absurd hp ho
      off_iff_rearm := by simp
      off_read_empty := by simp
      falling_room := by simp [hbits]
      rising_iff_full := by simp [hbits]
      ticks_in_progress := fun _ => hn
      ticks_le := Nat.le_succ_of_le hn }
  case false =>
    have hon : e.edgeSense ≠ .off := fun ho => by simp [(h.off_iff_rearm hp).1 ho] at hw
    exact { h with
      quiet_outside := fun ho => absurd hp ho
      off_iff_rearm := by simp [hon]
      off_read_empty := by simp [hon]
      falling_room := by simpa using h.falling_room
      rising_iff_full := by simpa using h.rising_iff_full
      ticks_in_progress := fun _ => hn
      ticks_le := Nat.le_succ_of_le hn }

theorem EngInv.tick {n : Nat} {e : Eng} (h : EngInv n e) : EngInv n (engTick n e) := by
  by_cases hp : e.status = .inProgress
  · have hle := h.ticks_in_progress hp
    by_cases hn : e.idleTicks + 1 ≤ n
    · exact h.counted hp hn
    · rw [engTick_fails n e hp (by omega)]
      exact h.finished hp .completedFailed (.inr rfl) (by omega)
  · rwa [engTick_outside n e hp]

theorem EngInv.taken {n : Nat} {e : Eng} (h : EngInv n e) (hc : completed e = true) : EngInv n (engTaken e) := by
  have hq := h.quiet_outside (by rcases (completed_iff e).1 hc with hs | hs <;> simp [hs])
  constructor <;> simp [hq, h.nbits_le, h.ticks_le]

/-! ### What a reaction of SEQ does -/

theorem armedFor_isArmed {st : SeqState} (h : st ≠ .stopped) : IsArmed (armedFor st) := by
  cases st
  case stopped => exact absurd rfl h
  case awaitModelWrite | awaitTransitionWrite | awaitInstantWrite => exact .inr ⟨_, rfl⟩
  case awaitModelRead | awaitTransitionRead | awaitInstantRead => exact .inl rfl

theorem Reaction.seq_eq {s t : State} {keys : List Emit} {st : SeqState} {kp : Bool} (h : Reaction s t keys st kp) :
    t.seq = { state := st, kpPending := kp } := by
  obtain ⟨⟨cmd, -, rfl⟩, -⟩ := h
  rfl

theorem Reaction.conf_eq {s t : State} {keys : List Emit} {st : SeqState} {kp : Bool} (h : Reaction s t keys st kp) :
    t.conf = s.conf := by
  obtain ⟨⟨cmd, -, rfl⟩, -⟩ := h
  rfl

/-- No reaction stops SEQ: there is no `Cmd` with which Stopped is entered. -/
theorem Reaction.not_stopped {s t : State} {keys : List Emit} {st : SeqState} {kp : Bool}
    (h : Reaction s t keys st kp) : st ≠ .stopped := by
  obtain ⟨⟨cmd, hcmd, -⟩, -⟩ := h
  rintro rfl
  simp [enteringCmd] at hcmd

theorem Reaction.eng_top {s t : State} {keys : List Emit} {st : SeqState} {kp : Bool} (h : Reaction s t keys st kp)
    (hc : s.conf = .top) : t.eng = armedFor st := by
  obtain ⟨⟨cmd, -, rfl⟩, -⟩ := h
  simp [hc]

theorem Reaction.eng_alone {s t : State} {keys : List Emit} {st : SeqState} {kp : Bool} (h : Reaction s t keys st kp)
    (hc : s.conf ≠ .top) : t.eng = s.eng := by
  obtain ⟨⟨cmd, -, rfl⟩, -⟩ := h
  simp [hc]

theorem Reaction.eng_isArmed {s t : State} {keys : List Emit} {st : SeqState} {kp : Bool}
    (h : Reaction s t keys st kp) (hc : s.conf = .top) : IsArmed t.eng :=
  h.eng_top hc ▸ armedFor_isArmed h.not_stopped

/-! ### What an instruction does to ENG -/

/-- Everything an instruction that answers a next state can have done to ENG, in any configuration. -/
inductive EngDid (i : Instr) (s t : State) : Prop
  | same : t.eng = s.eng → EngDid i s t
  | reset : i = .reset → t.eng = Eng.reset → EngDid i s t
  | tick : i = .tick → t.eng = engTick Config.timeoutTicks s.eng → EngDid i s t
  | fall (d : Bool) : t.eng = engFall d s.eng → EngDid i s t
  | rise : i = .rise → t.eng = engRise s.eng → EngDid i s t
  | taken : i = .poll → completed s.eng = true → t.eng = engTaken s.eng → EngDid i s t
  /-- a BEGIN, by the client of ENG or by a `Cmd` of TOP -/
  | begins : s.eng.status = .idle → startsTransfer s.conf i = true → isEdge i = false → IsArmed t.eng → EngDid i s t
  /-- a completion is taken and SEQ's `Cmd` runs in the same step (R60) -/
  | restarts : i = .poll → completed s.eng = true → s.conf = .top → IsArmed t.eng → EngDid i s t

theorem PollDid.engDid {s t : State} (h : PollDid s t) : EngDid .poll s t := by
  cases h with
  | nothing _ ht => exact .same (by rw [ht])
  | noPending hc _ ht => exact .taken rfl hc (by rw [ht, State.setEng_eng])
  | emits done k hc _ _ _ ht => exact .taken rfl hc (by rw [ht])
  | reacts kind result data done k hc _ _ htop _ _ _ h =>
    obtain ⟨keys, st, kp, hr, -⟩ := complete_reaction h
    exact .restarts rfl hc htop (hr.eng_isArmed htop)

/-- What starts a transfer for the client of ENG is a BEGIN or, in ENG alone, a command byte. -/
theorem startsTransfer_of_accepts_engAlone {conf : Configuration} {i : Instr}
    (hi : conf = .engAlone ∨ i = .beginRead ∨ ∃ b, i = .beginWrite b)
    (ha : ∀ c, accepts c i = true → c = .engAlone) : startsTransfer conf i = true := by
  have htop : accepts .top i ≠ true := fun h => nomatch ha .top h
  have hseq : accepts .seqAlone i ≠ true := fun h => nomatch ha .seqAlone h
  cases i
  case beginRead | beginWrite => rfl
  case queryModel | reqTransition | reqInstant =>
    obtain rfl : conf = .engAlone := by simpa using hi
    rfl
  case reset | start | tick | poll | fall | rise => exact absurd rfl htop
  all_goals exact absurd rfl hseq

/-- In TOP every instruction by which SEQ reacts starts a transfer: a bad-state completion is always refused (R161). -/
theorem startsTransfer_top_of_exec {i : Instr} {s t : State} (h : exec i s = .next t) (h1 : i ≠ .tick) (h2 : i ≠ .poll)
    (h3 : i ≠ .reset) (h4 : isEdge i = false) : startsTransfer .top i = true := by
  cases i
  case tBadStateStopped | tBadStateCode7 => cases h
  case tick => exact absurd rfl h1
  case poll => exact absurd rfl h2
  case reset => exact absurd rfl h3
  case fall | rise => cases h4
  all_goals rfl

/-- What an instruction that answers a next state did to ENG: the list of everything an instruction does, cut down to
`ENG`. -/
theorem exec_engDid {i : Instr} {s t : State} (h : exec i s = .next t) : EngDid i s t := by
  cases exec_did h with
  | reset hi ht => exact .reset hi (by rw [ht])
  | tick hi ht => exact .tick hi (by rw [ht, State.setEng_eng])
  | fall d _ ht => exact .fall d (by rw [ht, State.setEng_eng])
  | rise hi ht => exact .rise hi (by rw [ht, State.setEng_eng])
  | poll hi hp => exact hi ▸ hp.engDid
  | begins e hi he _ _ _ hedge ha hidle ht =>
    exact .begins hidle (startsTransfer_of_accepts_engAlone hi ha) hedge (by rwa [ht, State.setEng_eng])
  | reacts keys st kp h1 h2 h3 h4 hr _ =>
    by_cases hc : s.conf = .top
    · exact .begins (hr.idle hc) (hc ▸ startsTransfer_top_of_exec h h1 h2 h3 h4) h4 (hr.eng_isArmed hc)
    · exact .same (hr.eng_alone hc)

/-- ENG's invariant is kept by every instruction, in every configuration (R35). -/
theorem EngInv.exec {i : Instr} {s t : State} (hinv : EngInv Config.timeoutTicks s.eng) (h : exec i s = .next t) :
    EngInv Config.timeoutTicks t.eng := by
  cases exec_engDid h with
  | same ht => rwa [ht]
  | reset _ ht => exact ht ▸ engInv_reset _
  | tick _ ht => exact ht ▸ hinv.tick
  | fall d ht => exact ht ▸ hinv.fall d
  | rise _ ht => exact ht ▸ hinv.rise
  | taken _ hc ht => exact ht ▸ hinv.taken hc
  | begins _ _ _ ha => exact ha.engInv _
  | restarts _ _ _ ha => exact ha.engInv _

/-- Settles O37, handler by handler of ENG. -/
theorem engineInvariantsArePreserved : Obligations.EngineInvariantsArePreserved :=
  ⟨engInv_reset _, fun _ _ _ hinv h => hinv.exec h⟩

/-! ### What the handlers of ENG keep -/

theorem engFall_keeps (d : Bool) (e : Eng) :
    (engFall d e).status = e.status ∧ (engFall d e).pending = e.pending ∧ (engFall d e).idleTicks = e.idleTicks := by
  cases hs : fallSensed e
  · simp [engFall_unsensed d e hs]
  · cases hd : e.dir
    · simp [engFall_read d e hs hd]
    · simp [engFall_write d e hs hd]

@[simp] theorem engFall_status (d : Bool) (e : Eng) : (engFall d e).status = e.status := (engFall_keeps d e).1

@[simp] theorem engFall_pending (d : Bool) (e : Eng) : (engFall d e).pending = e.pending := (engFall_keeps d e).2.1

@[simp] theorem engFall_idleTicks (d : Bool) (e : Eng) : (engFall d e).idleTicks = e.idleTicks :=
  (engFall_keeps d e).2.2

/-- A falling edge of a write reads no bit into the buffer (R110). -/
theorem engFall_buf_of_write (d : Bool) (e : Eng) (hd : e.dir = .write) : (engFall d e).buf = e.buf := by
  cases hs : fallSensed e
  · rw [engFall_unsensed d e hs]
  · rw [engFall_write d e hs hd]

theorem engRise_keeps (e : Eng) :
    (engRise e).buf = e.buf ∧ (engRise e).pending = e.pending ∧ (engRise e).idleTicks = e.idleTicks := by
  cases hs : riseSensed e
  · simp [engRise_unsensed e hs]
  · simp [engRise_sensed e hs]

@[simp] theorem engRise_buf (e : Eng) : (engRise e).buf = e.buf := (engRise_keeps e).1

@[simp] theorem engRise_pending (e : Eng) : (engRise e).pending = e.pending := (engRise_keeps e).2.1

@[simp] theorem engRise_idleTicks (e : Eng) : (engRise e).idleTicks = e.idleTicks := (engRise_keeps e).2.2

theorem engRise_status (e : Eng) :
    (engRise e).status = e.status ∨ e.status = .inProgress ∧ (engRise e).status = .completedOk := by
  cases hs : riseSensed e
  · exact .inl (by rw [engRise_unsensed e hs])
  · exact .inr ⟨((riseSensed_iff e).1 hs).1, by rw [engRise_sensed e hs]⟩

theorem engTick_keeps (n : Nat) (e : Eng) :
    (engTick n e).buf = e.buf ∧ (engTick n e).pending = e.pending := by
  by_cases hp : e.status = .inProgress
  · by_cases hn : e.idleTicks + 1 ≤ n
    · simp [engTick_counts n e hp hn]
    · simp [engTick_fails n e hp (by omega)]
  · simp [engTick_outside n e hp]

@[simp] theorem engTick_buf (n : Nat) (e : Eng) : (engTick n e).buf = e.buf := (engTick_keeps n e).1

@[simp] theorem engTick_pending (n : Nat) (e : Eng) : (engTick n e).pending = e.pending := (engTick_keeps n e).2

theorem engTick_status (n : Nat) (e : Eng) :
    (engTick n e).status = e.status ∨ e.status = .inProgress ∧ (engTick n e).status = .completedFailed := by
  by_cases hp : e.status = .inProgress
  · by_cases hn : e.idleTicks + 1 ≤ n
    · exact .inl (by rw [engTick_counts n e hp hn])
    · exact .inr ⟨hp, by rw [engTick_fails n e hp (by omega)]⟩
  · exact .inl (by rw [engTick_outside n e hp])

theorem engTick_idleTicks (n : Nat) (e : Eng) (hp : e.status = .inProgress) :
    (engTick n e).idleTicks = e.idleTicks + 1 := by
  by_cases hn : e.idleTicks + 1 ≤ n
  · rw [engTick_counts n e hp hn]
  · rw [engTick_fails n e hp (by omega)]

/-! ### ENG.status and the activity counter over all instructions -/

theorem statusEdge_self (conf : Configuration) (i : Instr) (a : Status) : statusEdge conf i a a = true := by
  simp [statusEdge]

/-- Settles O40, by the list of everything an instruction does to ENG. -/
theorem statusMakesOnlyTheListedTransitions : Obligations.StatusMakesOnlyTheListedTransitions := by
  unfold Obligations.StatusMakesOnlyTheListedTransitions
  intro i s t h
  cases exec_engDid h with
  | same ht => rw [ht, statusEdge_self]
  | reset hi ht =>
    rw [hi, ht]
    cases s.eng.status <;> rfl
  | tick hi ht =>
    rw [hi, ht]
    rcases engTick_status Config.timeoutTicks s.eng with hs | ⟨hp, hs⟩
    · rw [hs, statusEdge_self]
    · rw [hp, hs]; rfl
  | fall d ht => rw [ht, engFall_status, statusEdge_self]
  | rise hi ht =>
    rw [hi, ht]
    rcases engRise_status s.eng with hs | ⟨hp, hs⟩
    · rw [hs, statusEdge_self]
    · rw [hp, hs]; rfl
  | taken hi hc ht =>
    rw [hi, ht, engTaken_status]
    rcases (completed_iff _).1 hc with hs | hs <;> rw [hs] <;> rfl
  | begins hidle hstart _ ha => rwa [hidle, ha.status]
  | restarts hi hc htop ha =>
    rw [hi, htop, ha.status]
    rcases (completed_iff _).1 hc with hs | hs <;> rw [hs] <;> rfl

/-- Settles O41, by the list of everything an instruction does to ENG. -/
theorem onlyBeginAndTickChangeTheCounter : Obligations.OnlyBeginAndTickChangeTheCounter := by
  unfold Obligations.OnlyBeginAndTickChangeTheCounter
  intro i s t h hne
  cases exec_engDid h with
  | same ht => exact absurd (by rw [ht]) hne
  | reset hi ht => exact .inr ⟨⟨by rw [ht]; rfl, .inr (.inr hi)⟩, hi ▸ rfl⟩
  | tick hi ht =>
    by_cases hp : s.eng.status = .inProgress
    · exact .inl ⟨hi, hp, by rw [ht, engTick_idleTicks _ _ hp]⟩
    · exact absurd (by rw [ht, engTick_outside _ _ hp]) hne
  | fall d ht => exact absurd (by rw [ht, engFall_idleTicks]) hne
  | rise _ ht => exact absurd (by rw [ht, engRise_idleTicks]) hne
  | taken _ _ ht => exact absurd (by rw [ht, engTaken_idleTicks]) hne
  | begins _ _ hedge ha => exact .inr ⟨⟨ha.idleTicks, ha.elim .inl (.inr ∘ .inl)⟩, hedge⟩
  | restarts hi _ _ ha => exact .inr ⟨⟨ha.idleTicks, ha.elim .inl (.inr ∘ .inl)⟩, hi ▸ rfl⟩

/-! ### TOP's invariant under ENG's handlers and under a reaction of SEQ (R36) -/

/-- Idle is left and entered by no handler of an edge or a tick. -/
theorem engTick_idle_iff (n : Nat) (e : Eng) : (engTick n e).status = .idle ↔ e.status = .idle := by
  rcases engTick_status n e with hs | ⟨hp, hs⟩
  · rw [hs]
  · simp [hp, hs]

theorem engRise_idle_iff (e : Eng) : (engRise e).status = .idle ↔ e.status = .idle := by
  rcases engRise_status e with hs | ⟨hp, hs⟩
  · rw [hs]
  · simp [hp, hs]

/-- TOP's invariant reads of ENG only whether it is idle, what is pending, and the byte of a pending write. -/
theorem TopInv.setEng {s : State} {e : Eng} (h : TopInv s) (hidle : e.status = .idle ↔ s.eng.status = .idle)
    (hpend : e.pending = s.eng.pending) (hbuf : s.eng.pending = .pendingWrite → e.buf = s.eng.buf) :
    TopInv (s.setEng e) where
  stopped_iff_idle := h.stopped_iff_idle.trans hidle.symm
  write_armed b hb := by
    obtain ⟨hw, hbyte⟩ := h.write_armed b hb
    exact ⟨hpend.trans hw, (hbuf hw).trans hbyte⟩
  read_armed hr := hpend.trans (h.read_armed hr)
  kp_iff_instant := h.kp_iff_instant

theorem topInv_reset {s : State} (heng : s.eng = Eng.reset) (hseq : s.seq = Seq.reset) : TopInv s := by
  constructor <;> simp [heng, hseq, Eng.reset, Seq.reset, commandInFlight, awaitedKind, inInstant]

/-- T4 through a reaction: the flag SEQ leaves is set exactly in the two states of an instant exchange (R31). -/
theorem Follows.kp_eq {s : State} {keys : List Emit} {st : SeqState} {kp : Bool} (hf : Follows s keys st kp)
    (h : s.seq.kpPending = inInstant s.seq.state) : kp = inInstant st := by
  cases hf with
  | modelW hs | modelR hs | transW hs | null hs | key _ hs _ | instW hs => rw [h, hs]; rfl
  | keypad _ | instR _ _ | fail _ | start _ => rfl

/-- T1 to T3 after a reaction in TOP: ENG is armed for the state SEQ enters. -/
theorem Reaction.topInv {s t : State} {keys : List Emit} {st : SeqState} {kp : Bool} (h : Reaction s t keys st kp)
    (hc : s.conf = .top) (hkp : kp = inInstant st) : TopInv t := by
  have hst := h.not_stopped
  constructor <;> rw [h.seq_eq]
  case stopped_iff_idle => simp [hst, (h.eng_isArmed hc).status]
  case write_armed =>
    intro b hb
    rw [h.eng_top hc]
    cases st <;> simp_all [commandInFlight, armedFor]
  case read_armed =>
    intro hr
    rw [h.eng_top hc]
    cases st <;> simp_all [awaitedKind, armedFor]
  case kp_iff_instant => exact hkp

/-- A POLL in TOP keeps TOP's invariant: the states it would be lost in have nothing pending, or another configuration. -/
theorem PollDid.topInv {s t : State} (h : PollDid s t) (hc : s.conf = .top) (heng : EngInv Config.timeoutTicks s.eng)
    (hinv : TopInv s) : TopInv t := by
  cases h with
  | nothing _ ht => rwa [ht]
  | noPending hdone hn _ =>
    have hidle := heng.idle_iff_no_pending.2 hn
    simp [completed, hidle] at hdone
  | emits done k _ _ _ hnt _ => exact absurd hc hnt
  | reacts kind result data done k _ _ _ _ _ _ _ h =>
    obtain ⟨keys, st, kp, hr, hf⟩ := complete_reaction h
    exact hr.topInv hc (hf.kp_eq hinv.kp_iff_instant)

/-- TOP's invariant is kept by every instruction TOP accepts (R36); RESET stops SEQ and idles ENG together. -/
theorem TopInv.exec {i : Instr} {s t : State} (hinv : TopInv s) (heng : EngInv Config.timeoutTicks s.eng)
    (hc : s.conf = .top) (ha : accepts .top i = true) (h : exec i s = .next t) : TopInv t := by
  cases exec_did h with
  | reset _ ht => exact topInv_reset (by rw [ht]) (by rw [ht])
  | tick _ ht =>
    exact ht ▸ hinv.setEng (engTick_idle_iff _ _) (engTick_pending _ _) (fun _ => engTick_buf _ _)
  | fall d _ ht =>
    exact ht ▸ hinv.setEng (by rw [engFall_status]) (engFall_pending d _)
      (fun hw => engFall_buf_of_write d _ (heng.pendingWrite_dir hw))
  | rise _ ht => exact ht ▸ hinv.setEng (engRise_idle_iff _) (engRise_pending _) (fun _ => engRise_buf _)
  | poll _ hp => exact hp.topInv hc heng hinv
  | begins _ _ _ _ _ _ _ honly _ _ => cases honly .top ha
  | reacts keys st kp _ _ _ _ hr hf =>
    rcases hf with hf | ⟨-, -, -, honly⟩
    · exact hr.topInv hc (hf.kp_eq hinv.kp_iff_instant)
    · cases honly .top ha

/-! ### ENG alone and SEQ alone -/

/-- The client of ENG alone hands a command byte to ENG (R74). -/
theorem commandRow_engAlone (c : Command) {s : State} (hc : s.conf = .engAlone) :
    commandRow c s = beginTransfer (engArmedWrite (commandByte c)) s := by
  simp [commandRow, hc]

/-- In ENG alone every accepted input but RESET, POLL, TICK and the edges starts a transfer. -/
theorem exec_engAlone_begins {i : Instr} {s : State} (hc : s.conf = .engAlone) (ha : accepts .engAlone i = true)
    (h1 : i ≠ .tick) (h2 : i ≠ .poll) (h3 : i ≠ .reset) (h4 : isEdge i = false) :
    ∃ armed, exec i s = beginTransfer armed s := by
  cases i
  case beginRead | beginWrite => exact ⟨_, rfl⟩
  case queryModel | reqTransition | reqInstant => exact ⟨_, commandRow_engAlone _ hc⟩
  case tick => exact absurd rfl h1
  case poll => exact absurd rfl h2
  case reset => exact absurd rfl h3
  case fall | rise => cases h4
  all_goals cases ha

theorem PollDid.seq_eq_of_not_top {s t : State} (h : PollDid s t) (hc : s.conf ≠ .top) : t.seq = s.seq := by
  cases h with
  | nothing _ ht => rw [ht]
  | noPending _ _ ht => rw [ht, State.setEng_seq]
  | emits _ _ _ _ _ _ ht => rw [ht]
  | reacts _ _ _ _ _ _ _ _ htop => exact absurd htop hc

/-- ENG alone leaves SEQ as after reset. -/
theorem exec_engAlone_seq {i : Instr} {s t : State} (hinv : s.seq = Seq.reset) (hc : s.conf = .engAlone)
    (ha : accepts .engAlone i = true) (h : exec i s = .next t) : t.seq = Seq.reset := by
  cases exec_did h with
  | reset _ ht => rw [ht]
  | tick _ ht | fall _ _ ht | rise _ ht => rwa [ht]
  | poll _ hp => rw [hp.seq_eq_of_not_top (by simp [hc]), hinv]
  | begins _ _ _ _ _ _ _ _ _ ht => rwa [ht]
  | reacts _ _ _ h1 h2 h3 h4 _ _ =>
    obtain ⟨armed, hb⟩ := exec_engAlone_begins hc ha h1 h2 h3 h4
    obtain ⟨-, rfl⟩ := (beginTransfer_next_iff armed s t).1 (hb ▸ h)
    exact hinv

/-- SEQ alone leaves ENG as after reset and keeps the flag as in R31. -/
theorem exec_seqAlone_keeps {i : Instr} {s t : State} (heng : s.eng = Eng.reset)
    (hkp : s.seq.kpPending = inInstant s.seq.state) (hc : s.conf = .seqAlone) (ha : accepts .seqAlone i = true)
    (h : exec i s = .next t) : t.eng = Eng.reset ∧ t.seq.kpPending = inInstant t.seq.state := by
  cases exec_did h with
  | reset _ ht => rw [ht]; exact ⟨rfl, rfl⟩
  | tick hi _ | fall _ hi _ | rise hi _ | poll hi _ => rw [hi] at ha; cases ha
  | begins _ _ _ _ _ _ _ honly _ _ => cases honly .seqAlone ha
  | reacts keys st kp _ _ _ _ hr hf =>
    rcases hf with hf | ⟨-, -, -, honly⟩
    · rw [hr.eng_alone (by simp [hc]), hr.seq_eq]
      exact ⟨heng, hf.kp_eq hkp⟩
    · cases honly .seqAlone ha

/-! ### The invariant of the machine over a step -/

theorem PollDid.conf_eq {s t : State} (h : PollDid s t) : t.conf = s.conf := by
  cases h with
  | nothing _ ht => rw [ht]
  | noPending _ _ ht => rw [ht, State.setEng_conf]
  | emits _ _ _ _ _ _ ht => rw [ht]
  | reacts _ _ _ _ _ _ _ _ _ _ _ _ h =>
    obtain ⟨_, _, _, hr, -⟩ := complete_reaction h
    exact hr.conf_eq

/-- Which composition runs is fixed (log entry 1). -/
theorem exec_conf {i : Instr} {s t : State} (h : exec i s = .next t) : t.conf = s.conf := by
  cases exec_did h with
  | reset _ ht => rw [ht]
  | tick _ ht | fall _ _ ht | rise _ ht => rw [ht, State.setEng_conf]
  | poll _ hp => exact hp.conf_eq
  | begins _ _ _ _ _ _ _ _ _ ht => rw [ht, State.setEng_conf]
  | reacts _ _ _ _ _ _ _ hr _ => exact hr.conf_eq

/-- A step that answers a next state waited, or ran an instruction its configuration accepts. -/
theorem step_next_cases {s t : State} (h : step s = .next t) :
    t = s ∨ ∃ i, accepts s.conf i = true ∧ exec i s.takeItem = .next t := by
  unfold step fetch at h
  cases hp : s.port with
  | nil => exact .inl (by simpa [hp, eq_comm] using h)
  | cons item rest =>
    cases hd : decodeItem s.seq.state item with
    | error r => simp [hp, hd] at h
    | ok i =>
      cases ha : acceptsInput s.conf item i
      · simp [hp, hd, ha] at h
      · simp only [acceptsInput, Bool.and_eq_true] at ha
        exact .inr ⟨i, ha.2, by simpa [hp, hd, acceptsInput, ha] using h⟩

/-- The inputs presented are no part of the invariant. -/
theorem StateInv.takeItem {s : State} (h : StateInv s) : StateInv s.takeItem where
  eng := h.eng
  top hc := { h.top hc with }
  engAlone := h.engAlone
  seqAlone := h.seqAlone

/-- The invariant of the machine is kept by every instruction its configuration accepts. A BEGIN in TOP would break T1,
and no port of TOP accepts one (R87). -/
theorem StateInv.exec {i : Instr} {s t : State} (hinv : StateInv s) (ha : accepts s.conf i = true)
    (h : exec i s = .next t) : StateInv t where
  eng := hinv.eng.exec h
  top hc := by
    rw [exec_conf h] at hc
    exact (hinv.top hc).exec hinv.eng hc (hc ▸ ha) h
  engAlone hc := by
    rw [exec_conf h] at hc
    exact exec_engAlone_seq (hinv.engAlone hc) hc (hc ▸ ha) h
  seqAlone hc := by
    rw [exec_conf h] at hc
    obtain ⟨heng, hkp⟩ := hinv.seqAlone hc
    exact exec_seqAlone_keeps heng hkp hc (hc ▸ ha) h

/-- Settles O35: the step waits, or takes the oldest input and runs it. -/
theorem everyStepKeepsTheInvariant : Obligations.EveryStepKeepsTheInvariant := by
  unfold Obligations.EveryStepKeepsTheInvariant
  intro s t hinv h
  rcases step_next_cases h with rfl | ⟨i, ha, hx⟩
  · exact hinv
  · exact hinv.takeItem.exec ha hx

/-! ### The state after reset -/

/-- Settles O2. -/
theorem stateAfterResetHasTheResetValues : Obligations.StateAfterResetHasTheResetValues :=
  ⟨rfl, rfl⟩

/-- Settles O36: of the three configurations the state after reset is in TOP. -/
theorem resetHasTheInvariant : Obligations.ResetHasTheInvariant where
  eng := engInv_reset _
  top _ := topInv_reset rfl rfl
  engAlone := nofun
  seqAlone := nofun

/-! ### TOP never stops -/

theorem toEngine_answers (armed : Eng) {s : State} (h : s.conf = .top → s.eng.status = .idle) :
    ∃ t, toEngine armed s = .next t := by
  by_cases hc : s.conf = .top
  · exact ⟨_, (toEngine_next_iff ..).2 (.inl ⟨hc, h hc, rfl⟩)⟩
  · exact ⟨s, (toEngine_next_iff ..).2 (.inr ⟨hc, rfl⟩)⟩

theorem issue_answers (c : Command) {s : State} (h : s.conf = .top → s.eng.status = .idle) :
    ∃ t, issue c s = .next t := toEngine_answers _ h

theorem awaitReply_answers (st : SeqState) {s : State} (h : s.conf = .top → s.eng.status = .idle) :
    ∃ t, awaitReply st s = .next t := toEngine_answers _ h

/-- A row answers in its state where its reaction does. -/
theorem inState_answers {st : SeqState} {f : State → Result} {s : State} (hs : s.seq.state = st)
    (h : ∃ t, f s = .next t) : ∃ t, inState st f s = .next t := by
  obtain ⟨t, ht⟩ := h
  exact ⟨t, (inState_next_iff st f s t).2 ⟨hs, ht⟩⟩

/-- The row of a successful byte in a started state answers, by the state (R143 to R150). -/
theorem runRow_successRow_answers {s : State} (data : Byte) (hs : s.seq.state ≠ .stopped)
    (h : s.conf = .top → s.eng.status = .idle) : ∃ t, runRow (successRow s.seq.state data) s = .next t := by
  cases hst : s.seq.state
  case stopped => exact absurd hst hs
  case awaitModelWrite | awaitTransitionWrite | awaitInstantWrite => exact inState_answers hst (awaitReply_answers _ h)
  case awaitModelRead => exact inState_answers hst (issue_answers _ h)
  case awaitInstantRead => exact inState_answers hst (issue_answers _ h)
  case awaitTransitionRead =>
    unfold successRow
    split_ifs with hk hn
    · exact inState_answers hst (issue_answers _ h)
    · exact inState_answers hst (issue_answers _ h)
    · have hsent : isSentinel data = false := by simp [isSentinel, hk, hn]
      simp only [runRow, execTTransRKey, hsent]
      exact inState_answers hst (issue_answers _ h)

/-- A completion of the kind SEQ awaits answers: by the restart, or by the row of the byte. -/
theorem complete_answers {kind : Dir} {s : State} (result data : Byte) (hk : awaitedKind s.seq.state = some kind)
    (h : s.conf = .top → s.eng.status = .idle) : ∃ t, complete kind result data s = .next t := by
  have hs : s.seq.state ≠ .stopped := fun hs => by simp [hs, awaitedKind] at hk
  simp only [complete, kindDisagrees, hk, bne_self_eq_false, Bool.and_false, Bool.false_eq_true, if_false,
    completionRow, hs]
  split
  · simp only [runRow, execTFail, hs, if_false]
    exact inState_answers rfl (issue_answers _ h)
  · exact runRow_successRow_answers data hs h

/-- T3 read from ENG's side: what is pending is the transfer SEQ awaits. -/
theorem TopInv.awaits_pending {s : State} (h : TopInv s) (hs : s.eng.status ≠ .idle) :
    s.eng.pending = .pendingWrite ∧ awaitedKind s.seq.state = some .write ∨
      s.eng.pending = .pendingRead ∧ awaitedKind s.seq.state = some .read := by
  cases hst : s.seq.state
  case stopped => exact absurd (h.stopped_iff_idle.1 hst) hs
  case awaitModelWrite | awaitTransitionWrite | awaitInstantWrite =>
    obtain ⟨hw, -⟩ := h.write_armed _ (by rw [hst]; rfl)
    exact .inl ⟨hw, rfl⟩
  case awaitModelRead | awaitTransitionRead | awaitInstantRead => exact .inr ⟨h.read_armed (by rw [hst]; rfl), rfl⟩

theorem toSequencer_top_answers {kind : Dir} {s : State} (result data : Byte) (hc : s.conf = .top)
    (hk : awaitedKind s.seq.state = some kind) (hs : s.eng.status = .idle) :
    ∃ t, toSequencer kind result data s = .next t := by
  simp only [toSequencer, hc]
  exact complete_answers result data hk fun _ => hs

theorem execPoll_top_answers {s : State} (hc : s.conf = .top) (hinv : TopInv s) : ∃ t, execPoll s = .next t := by
  unfold execPoll
  split
  case isFalse => exact ⟨s, rfl⟩
  case isTrue hdone =>
    have hs : s.eng.status ≠ .idle := fun hs => by simp [completed, hs] at hdone
    rcases hinv.awaits_pending hs with ⟨hp, hk⟩ | ⟨hp, hk⟩ <;> simp only [hp]
    · exact toSequencer_top_answers _ _ hc hk rfl
    · split
      · exact toSequencer_top_answers _ _ hc hk rfl
      · exact toSequencer_top_answers _ _ hc hk rfl

/-- An event TOP accepts answers a next state, a START while SEQ is stopped (R101, R141). -/
theorem exec_top_answers {i : Instr} {s : State} (hc : s.conf = .top) (hinv : TopInv s)
    (ha : accepts .top i = true) (hstart : i = .start → s.seq.state = .stopped) : ∃ t, exec i s = .next t := by
  cases i
  case reset | tick | fall | rise => exact ⟨_, rfl⟩
  case poll => exact execPoll_top_answers hc hinv
  case start =>
    have hs := hstart rfl
    obtain ⟨t, ht⟩ := issue_answers (s := s.setKp false) .queryModel fun _ => hinv.stopped_iff_idle.1 hs
    exact ⟨t, (if_pos hs).trans ht⟩
  all_goals cases ha

/-- An event word that decodes to an instruction TOP accepts is run. -/
theorem step_top_event {s : State} {w : EventWord} {i : Instr} {rest : List PortItem} (hc : s.conf = .top)
    (hp : s.port = .event w :: rest) (hd : decodeEV11 w = .ok i) (ha : accepts .top i = true) :
    step s = exec i s.takeItem := by
  simp [step, fetch, hp, decodeItem, hd, orUndecodable, acceptsInput, takesInput, hc, ha]

/-- Settles O38: progress by the event, preservation by the step lemma. -/
theorem topNeverStops : Obligations.TopNeverStops := by
  unfold Obligations.TopNeverStops
  intro s hinv hc hduty
  cases hp : s.port with
  | nil => exact ⟨s, by simp [step, fetch, hp], hinv, hc⟩
  | cons item rest =>
    obtain ⟨w, i, rfl, hd, ha, hstart⟩ := hduty item rest hp
    obtain ⟨t, ht⟩ := exec_top_answers (s := s.takeItem) hc (hinv.takeItem.top hc) ha hstart
    refine ⟨t, (step_top_event hc hp hd ha).trans ht, hinv.takeItem.exec (hc ▸ ha) ht, ?_⟩
    rw [exec_conf ht, State.takeItem_conf, hc]

end Sys2Proof.Machine
end

section
/-! PROOFS. The edge handler, the data line and the step (spec/20_memory.md R58 to R63; spec/30_encoding.md R87;
spec/60_exceptions.md R188). The edge handlers keep the fields of a transfer that only the main context writes; a step
has one equation for each way its oldest input can go. -/

namespace Sys2Proof.Machine

/-! ### The edge events run no completion -/

/-- The interrupt context raises the two edge events and nothing else (R188). -/
theorem contextOf_eq_interrupt_iff (i : Instr) : contextOf i = .interrupt ↔ (∃ d, i = .fall d) ∨ i = .rise := by
  cases i <;> simp [contextOf]

/-- A falling edge turns no transfer around and re-arms none (R110). -/
theorem engFall_keeps_dir_rearmWait (d : Bool) (e : Eng) :
    (engFall d e).dir = e.dir ∧ (engFall d e).rearmWait = e.rearmWait := by
  cases hs : fallSensed e
  · simp [engFall_unsensed d e hs]
  · cases hd : e.dir
    · simp [engFall_read d e hs hd, hd]
    · simp [engFall_write d e hs hd, hd]

@[simp] theorem engFall_dir (d : Bool) (e : Eng) : (engFall d e).dir = e.dir := (engFall_keeps_dir_rearmWait d e).1

@[simp] theorem engFall_rearmWait (d : Bool) (e : Eng) : (engFall d e).rearmWait = e.rearmWait :=
  (engFall_keeps_dir_rearmWait d e).2

/-- A rising edge turns no transfer around and re-arms none (R113). -/
theorem engRise_keeps_dir_rearmWait (e : Eng) :
    (engRise e).dir = e.dir ∧ (engRise e).rearmWait = e.rearmWait := by
  cases hs : riseSensed e
  · simp [engRise_unsensed e hs]
  · simp [engRise_sensed e hs]

@[simp] theorem engRise_dir (e : Eng) : (engRise e).dir = e.dir := (engRise_keeps_dir_rearmWait e).1

@[simp] theorem engRise_rearmWait (e : Eng) : (engRise e).rearmWait = e.rearmWait := (engRise_keeps_dir_rearmWait e).2

/-- Settles O42: an edge event only replaces ENG, by what the edge handler makes of it. -/
theorem edgeEventsNeverRunACallback : Obligations.EdgeEventsNeverRunACallback := by
  unfold Obligations.EdgeEventsNeverRunACallback
  intro i s hi
  rcases (contextOf_eq_interrupt_iff i).1 hi with ⟨d, rfl⟩ | rfl
  · exact ⟨s.setEng (engFall d s.eng), rfl, by simp⟩
  · exact ⟨s.setEng (engRise s.eng), rfl, by simp⟩

/-! ### The data line -/

/-- I2 read from the line: outside a transfer the block pulls nothing. -/
theorem EngInv.inProgress_of_low {n : Nat} {e : Eng} (h : EngInv n e) (hlow : e.dataDrive = .low) :
    e.status = .inProgress := by
  by_contra hp
  obtain ⟨-, -, hreleased⟩ := h.quiet_outside hp
  simp [hlow] at hreleased

/-- I6 read from the line: a read pulls nothing. -/
theorem EngInv.write_of_low {n : Nat} {e : Eng} (h : EngInv n e) (hlow : e.dataDrive = .low) : e.dir = .write := by
  cases hd : e.dir
  case read =>
    have hreleased := h.read_released (h.inProgress_of_low hlow) hd
    simp [hlow] at hreleased
  case write => rfl

/-- Whatever the peer does, a FALL carries 0 while the block pulls the line (R58). -/
theorem FallDuty.eq_false_of_low {s : State} {d : Bool} (h : FallDuty s d) (hlow : s.eng.dataDrive = .low) :
    d = false := by
  obtain ⟨peerPulls, rfl⟩ := h
  rw [hlow, lineLevel_low]

/-- Settles O49, from I2, I6 and the wired AND of the line. -/
theorem theLineIsPulledOnlyDuringAWrite : Obligations.TheLineIsPulledOnlyDuringAWrite :=
  fun _ hinv hlow => ⟨hinv.eng.inProgress_of_low hlow, hinv.eng.write_of_low hlow, fun _ hd => hd.eq_false_of_low hlow⟩

/-! ### The step, by its oldest input -/

/-- With nothing presented the block waits (log entry 2). -/
theorem step_of_port_nil {s : State} (hp : s.port = []) : step s = .next s := by
  simp [step, fetch, hp]

/-- Taking the oldest input leaves the inputs behind it. -/
theorem State.takeItem_of_port_cons {s : State} {item : PortItem} {rest : List PortItem} (hp : s.port = item :: rest) :
    s.takeItem = { s with port := rest } := by
  simp [State.takeItem, hp]

section
variable {s : State} {item : PortItem} {rest : List PortItem} {i : Instr}

/-- An input that is accepted is taken and run (R60). -/
theorem step_of_accepted (hp : s.port = item :: rest) (hd : decodeItem s.seq.state item = .ok i)
    (ha : acceptsInput s.conf item i = true) : step s = exec i { s with port := rest } := by
  simp [step, fetch, hp, hd, ha, State.takeItem_of_port_cons hp]

/-- An input that this configuration does not accept stops the step (R87). -/
theorem step_of_not_accepted (hp : s.port = item :: rest) (hd : decodeItem s.seq.state item = .ok i)
    (ha : acceptsInput s.conf item i = false) : step s = .refused .notAccepted := by
  simp [step, fetch, hp, hd, ha]

/-- An input that is no instruction stops the step, with the decoder's reason (R87). -/
theorem step_of_undecodable {r : Refusal} (hp : s.port = item :: rest) (hd : decodeItem s.seq.state item = .error r) :
    step s = .refused r := by
  simp [step, fetch, hp, hd]

end

/-- Settles O33. -/
theorem stepRunsTheDecodedInstruction : Obligations.StepRunsTheDecodedInstruction :=
  fun _ _ _ => ⟨step_of_port_nil, fun hp =>
    ⟨fun _ => step_of_accepted hp, fun _ => step_of_not_accepted hp, fun _ => step_of_undecodable hp⟩⟩

end Sys2Proof.Machine
end

section
/-! PROOFS. The encodings (spec/30_encoding.md R70 to R93). Each format's decoder is inverted once, as "the instruction
it answers is well-formed and encodes to the word"; the round trips, the reserved words and the acceptance at the ports
are read from that and from the table of events. -/

namespace Sys2Proof

/-! ### The words of each format and their fields -/

/-- Bits above a format's width do not survive the round trip through it, and a word that fits has none. -/
theorem setWidth_setWidth_of_fits {n : Nat} {w : BitVec 12} (h : w.toNat < 2 ^ n) (hn : n ≤ 12) :
    (w.setWidth n).setWidth 12 = w := by
  apply BitVec.eq_of_toNat_eq
  have h12 : 2 ^ n ≤ 2 ^ 12 := Nat.pow_le_pow_right (by decide) hn
  rw [BitVec.toNat_setWidth, BitVec.toNat_setWidth, Nat.mod_eq_of_lt h, Nat.mod_eq_of_lt (h.trans_le h12)]

/-- An event word is made of its two fields (R85). -/
theorem eventWord_fields (w : EventWord) : eventWord (w.extractLsb' 8 3) (w.extractLsb' 0 8) = w :=
  BitVec.extractLsb'_append_extractLsb' (w := 3) (len := 8)

/-- A bit as a field one bit wide. -/
theorem ofBool_getLsbD {n : Nat} (w : BitVec n) (k : Nat) : BitVec.ofBool (w.getLsbD k) = w.extractLsb' k 1 := by
  ext j hj
  obtain rfl : j = 0 := by omega
  simp

/-- A completion word is made of its three fields (R88). -/
theorem completionWord_fields (w : CompletionWord) :
    completionWord (w.extractLsb' 9 3) (w.getLsbD 8) (w.extractLsb' 0 8) = w := by
  have hhigh : w.extractLsb' 9 3 ++ w.extractLsb' 8 1 = w.extractLsb' 8 4 :=
    BitVec.extractLsb'_append_extractLsb'_eq_extractLsb' rfl
  rw [completionWord, ofBool_getLsbD, hhigh]
  exact BitVec.extractLsb'_append_extractLsb' (w := 4) (len := 8)

/-- The state of a code is the one that has it (R30). -/
theorem SeqState.ofCode_eq_some_iff {c : BitVec 3} {st : SeqState} : SeqState.ofCode c = some st ↔ st.code = c := by
  revert c; cases st <;> decide

/-- The one unused code is 7 (R30). -/
theorem SeqState.ofCode_eq_none_iff {c : BitVec 3} : SeqState.ofCode c = none ↔ c = 7 := by
  revert c; decide

theorem isSentinel_eq_false_iff {b : Byte} : isSentinel b = false ↔ b ≠ rspNullByte ∧ b ≠ rspKeypadByte := by
  simp [isSentinel]

/-! ### The decoder on the words the encoder makes -/

@[simp] theorem decode_rsp8 (st : SeqState) (b : Byte) : decode (.rsp8 st) (b.setWidth 12) = decodeRSP8 st b :=
  (if_pos (Laws.FitsFormat.byte_fits b)).trans (congrArg (decodeRSP8 st) (by simp))

@[simp] theorem decode_ev11 (w : EventWord) : decode .ev11 (w.setWidth 12) = decodeEV11 w :=
  (if_pos (Laws.FitsFormat.event_fits w)).trans (congrArg decodeEV11 (by simp))

@[simp] theorem decode_cw12 (w : CompletionWord) : decode .cw12 w = .ok (decodeCW12 w) :=
  if_pos w.isLt

/-! ### EV11: the table of events (R86) -/

/-- The events whose operand is zero, by kind (R86). -/
def operandlessEvents : List (BitVec 3 × Instr) :=
  [(0, .reset), (1, .start), (2, .tick), (3, .poll), (5, .rise), (6, .beginRead)]

theorem operandlessEvents_encode :
    ∀ row ∈ operandlessEvents, row.2.wellFormed = true ∧ encode row.2 = encodeEV11 row.1 0 := by decide

theorem eventWithoutOperand_ok_iff {operand : Byte} {i j : Instr} :
    eventWithoutOperand operand i = .ok j ↔ operand = 0 ∧ i = j := by
  rw [eventWithoutOperand]
  split_ifs with h <;> simp only [h, true_and, false_and, Except.ok.injEq]

theorem eventWithoutOperand_error_iff {operand : Byte} {i : Instr} {e : DecodeError} :
    eventWithoutOperand operand i = .error e ↔ operand ≠ 0 ∧ e = .reservedEventWord := by
  rw [eventWithoutOperand, eq_comm (a := e)]
  split_ifs with h <;> simp only [h, ne_eq, not_true, not_false_iff, true_and, false_and, Except.error.injEq]

/-- Everything the event decoder can do: six kinds without an operand, FALL with a level, BEGIN_WRITE with a byte. -/
theorem decodeEV11_cases (w : EventWord) :
    (∃ i, (w.extractLsb' 8 3, i) ∈ operandlessEvents ∧ decodeEV11 w = eventWithoutOperand (w.extractLsb' 0 8) i) ∨
    (w.extractLsb' 8 3 = 4 ∧ decodeEV11 w =
      if (w.extractLsb' 0 8 : Byte) &&& 0xfe = 0 then .ok (.fall (bitOf (w.extractLsb' 0 8) 0))
      else .error .reservedEventWord) ∨
    (w.extractLsb' 8 3 = 7 ∧ decodeEV11 w = .ok (.beginWrite (w.extractLsb' 0 8))) := by
  have kinds : ∀ k : BitVec 3, k = 0 ∨ k = 1 ∨ k = 2 ∨ k = 3 ∨ k = 5 ∨ k = 6 ∨ k = 4 ∨ k = 7 := by decide
  rcases kinds (w.extractLsb' 8 3) with h | h | h | h | h | h | h | h <;>
    simp [decodeEV11, operandlessEvents, h]

/-- A level's operand has bits 7:1 zero, and the level is bit 0 (R86). -/
theorem fallOperand_of_masked {operand : Byte} (h : operand &&& 0xfe = 0) :
    (BitVec.ofBool (bitOf operand 0)).setWidth 8 = operand := by
  revert operand; decide

theorem masked_eq_zero_iff {operand : Byte} : operand &&& 0xfe = 0 ↔ operand.extractLsb' 1 7 = 0 := by
  revert operand; decide

theorem decodeEV11_fall (d : Bool) : decodeEV11 (eventWord 4 ((BitVec.ofBool d).setWidth 8)) = .ok (.fall d) := by
  cases d <;> rfl

/-! ### Every word that decodes is the encoding of its instruction -/

theorem encode_of_decodeCMD8 {b : Byte} {i : Instr} (h : decodeCMD8 b = .ok i) :
    i.wellFormed = true ∧ encode i = encodeCMD8 b := by
  unfold decodeCMD8 at h
  split_ifs at h with h1 h2 h3 <;> cases h
  · exact ⟨rfl, h1 ▸ rfl⟩
  · exact ⟨rfl, h2 ▸ rfl⟩
  · exact ⟨rfl, h3 ▸ rfl⟩

theorem encode_of_decodeRSP8 {st : SeqState} {b : Byte} {i : Instr} (h : decodeRSP8 st b = .ok i) :
    i.wellFormed = true ∧ encode i = encodeRSP8 st b := by
  cases st with
  | awaitModelRead => cases h; exact ⟨rfl, rfl⟩
  | awaitTransitionRead =>
    simp only [decodeRSP8] at h
    split_ifs at h with hnull hkeypad <;> cases h
    · exact ⟨rfl, hnull ▸ rfl⟩
    · exact ⟨rfl, hkeypad ▸ rfl⟩
    · simp [Instr.wellFormed, encode, isSentinel_eq_false_iff, hnull, hkeypad]
  | awaitInstantRead => cases h; simp [Instr.wellFormed, encode]
  | stopped | awaitModelWrite | awaitTransitionWrite | awaitInstantWrite => cases h

theorem encode_of_decodeEV11 {w : EventWord} {i : Instr} (h : decodeEV11 w = .ok i) :
    i.wellFormed = true ∧ encode i = encodeEV11 (w.extractLsb' 8 3) (w.extractLsb' 0 8) := by
  rcases decodeEV11_cases w with ⟨j, hrow, hw⟩ | ⟨hk, hw⟩ | ⟨hk, hw⟩ <;> rw [hw] at h
  · obtain ⟨hop, rfl⟩ := eventWithoutOperand_ok_iff.1 h
    rw [hop]
    exact operandlessEvents_encode _ hrow
  · split_ifs at h with hop
    cases h
    exact ⟨rfl, by rw [encode, fallOperand_of_masked hop, hk]⟩
  · cases h
    exact ⟨rfl, by rw [encode, hk]⟩

theorem encode_successRow {st : SeqState} (hst : st ≠ .stopped) (data : Byte) :
    (successRow st data).wellFormed = true ∧ encode (successRow st data) = encodeCW12 st.code false data := by
  cases st with
  | stopped => exact absurd rfl hst
  | awaitTransitionRead =>
    simp only [successRow]
    split_ifs with hkeypad hnull
    · exact ⟨rfl, hkeypad ▸ rfl⟩
    · exact ⟨rfl, hnull ▸ rfl⟩
    · exact ⟨by simp [Instr.wellFormed, isSentinel_eq_false_iff, hkeypad, hnull], rfl⟩
  | awaitModelWrite | awaitModelRead | awaitTransitionWrite | awaitInstantWrite | awaitInstantRead => exact ⟨rfl, rfl⟩

theorem encode_completionRow (code : BitVec 3) (fail : Bool) (data : Byte) :
    (completionRow (SeqState.ofCode code) fail data).wellFormed = true ∧
      encode (completionRow (SeqState.ofCode code) fail data) = encodeCW12 code fail data := by
  cases hst : SeqState.ofCode code with
  | none =>
    obtain rfl := SeqState.ofCode_eq_none_iff.1 hst
    exact ⟨rfl, rfl⟩
  | some st =>
    obtain rfl := SeqState.ofCode_eq_some_iff.1 hst
    by_cases hs : st = .stopped
    · subst hs
      exact ⟨rfl, rfl⟩
    · cases fail
      · simpa [completionRow, hs] using encode_successRow hs data
      · simp [completionRow, hs, Instr.wellFormed, encode]

theorem encode_decodeCW12 (w : CompletionWord) :
    (decodeCW12 w).wellFormed = true ∧ encode (decodeCW12 w) = { format := .cw12, word := w } := by
  obtain ⟨hwf, henc⟩ := encode_completionRow (w.extractLsb' 9 3) (w.getLsbD 8) (w.extractLsb' 0 8)
  exact ⟨hwf, by rw [decodeCW12, henc, encodeCW12, completionWord_fields]⟩

/-- Settles O30, by the inversion of each format's decoder. -/
theorem encodeOfDecodeIsTheWord : Obligations.EncodeOfDecodeIsTheWord := by
  unfold Obligations.EncodeOfDecodeIsTheWord
  intro f w i h
  unfold decode at h
  split at h
  case isFalse => cases h
  case isTrue hfits =>
    cases f with
    | cmd8 =>
      obtain ⟨hwf, henc⟩ := encode_of_decodeCMD8 h
      exact ⟨hwf, by rw [henc, encodeCMD8, setWidth_setWidth_of_fits (n := 8) hfits (by decide)]⟩
    | rsp8 st =>
      obtain ⟨hwf, henc⟩ := encode_of_decodeRSP8 h
      exact ⟨hwf, by rw [henc, encodeRSP8, setWidth_setWidth_of_fits (n := 8) hfits (by decide)]⟩
    | ev11 =>
      obtain ⟨hwf, henc⟩ := encode_of_decodeEV11 h
      exact ⟨hwf, by rw [henc, encodeEV11, eventWord_fields, setWidth_setWidth_of_fits (n := 11) hfits (by decide)]⟩
    | cw12 =>
      cases h
      exact encode_decodeCW12 w

/-! ### Every well-formed instruction decodes from its encoding -/

/-- A byte that is no sentinel is a key transition in AwaitTransitionRead (R75). -/
theorem decodeRSP8_transition {b : Byte} (h : isSentinel b = false) :
    decodeRSP8 .awaitTransitionRead b = .ok (.rspTransition (upField b) (scancodeField b)) := by
  obtain ⟨hnull, hkeypad⟩ := isSentinel_eq_false_iff.1 h
  simp [decodeRSP8, hnull, hkeypad]

theorem successRow_key {data : Byte} (h : isSentinel data = false) :
    successRow .awaitTransitionRead data = .tTransRKey data := by
  obtain ⟨hnull, hkeypad⟩ := isSentinel_eq_false_iff.1 h
  simp [successRow, hnull, hkeypad]

/-- The row of the completion word of a state that has a code (R89). -/
theorem decode_encodeCW12 (st : SeqState) (fail : Bool) (data : Byte) :
    decode .cw12 (completionWord st.code fail data) = .ok (completionRow (some st) fail data) := by
  rw [decode_cw12, decodeCW12_completionWord, SeqState.ofCode_code]

/-- Settles O29, row by row: the two classes with a side condition need it, the others do not. -/
theorem decodeOfEncodeIsTheInstruction : Obligations.DecodeOfEncodeIsTheInstruction := by
  unfold Obligations.DecodeOfEncodeIsTheInstruction
  intro i hwf
  cases i with
  | queryModel | reqTransition | reqInstant => rfl
  | rspModel d => exact decode_rsp8 .awaitModelRead d
  | rspNull | rspKeypadPending => rfl
  | rspTransition up scancode =>
    have hb : isSentinel (responseByte up scancode) = false := by simpa [Instr.wellFormed] using hwf
    simp [encode, encodeRSP8, decodeRSP8_transition hb]
  | rspInstant up scancode => simp [encode, encodeRSP8, decodeRSP8]
  | reset | start | tick | poll | rise | beginRead => rfl
  | fall d => exact (decode_ev11 _).trans (decodeEV11_fall d)
  | beginWrite b => simp [encode, encodeEV11, decodeEV11]
  | tBadStateStopped fail data => exact decode_encodeCW12 .stopped fail data
  | tBadStateCode7 fail data =>
    exact (decode_cw12 _).trans (congrArg Except.ok (decodeCW12_completionWord 7 fail data))
  | tFail st data =>
    have hst : st ≠ .stopped := by simpa [Instr.wellFormed] using hwf
    exact (decode_encodeCW12 st true data).trans (by simp [completionRow, hst])
  | tModelW data => exact decode_encodeCW12 .awaitModelWrite false data
  | tModelR data => exact decode_encodeCW12 .awaitModelRead false data
  | tTransW data => exact decode_encodeCW12 .awaitTransitionWrite false data
  | tTransRKeypad | tTransRNull => rfl
  | tTransRKey data =>
    have hb : isSentinel data = false := by simpa [Instr.wellFormed] using hwf
    exact (decode_encodeCW12 .awaitTransitionRead false data).trans (congrArg Except.ok (successRow_key hb))
  | tInstW data => exact decode_encodeCW12 .awaitInstantWrite false data
  | tInstR data => exact decode_encodeCW12 .awaitInstantRead false data

/-- Settles O28, by running the decoder on the words. -/
theorem sampleWordsDecode : Obligations.SampleWordsDecode := by
  unfold Obligations.SampleWordsDecode
  decide

/-! ### The completion map (R89) -/

/-- A word whose state code belongs to a state selects that state's row. -/
theorem decodeCW12_of_code {w : CompletionWord} {st : SeqState} (h : w.extractLsb' 9 3 = st.code) :
    decodeCW12 w = completionRow (some st) (w.getLsbD 8) (w.extractLsb' 0 8) := by
  rw [decodeCW12, h, SeqState.ofCode_code]

/-- A word of a started state that did not fail selects the state's row of success. -/
theorem decodeCW12_of_success {w : CompletionWord} {st : SeqState} (hst : st ≠ .stopped)
    (h : w.extractLsb' 9 3 = st.code) (hok : w.getLsbD 8 = false) :
    decodeCW12 w = successRow st (w.extractLsb' 0 8) := by
  rw [decodeCW12_of_code h, hok, completionRow, if_neg hst, if_neg Bool.false_ne_true]

/-- A failed word whose code is that of a started state selects T_FAIL there (R151). -/
theorem decodeCW12_of_fail {w : CompletionWord} (h0 : w.extractLsb' 9 3 ≠ 0) (h7 : w.extractLsb' 9 3 ≠ 7)
    (hfail : w.getLsbD 8 = true) :
    ∃ st : SeqState, st.code = w.extractLsb' 9 3 ∧ decodeCW12 w = .tFail st (w.extractLsb' 0 8) := by
  obtain ⟨st, hst⟩ := Option.ne_none_iff_exists'.1 (mt SeqState.ofCode_eq_none_iff.1 h7)
  have hcode := SeqState.ofCode_eq_some_iff.1 hst
  have hstarted : st ≠ .stopped := by
    rintro rfl
    exact h0 hcode.symm
  exact ⟨st, hcode, by simp [decodeCW12_of_code hcode.symm, completionRow, hstarted, hfail]⟩

/-- Settles O31: a row for each state code, and in AwaitTransitionRead one for each sentinel. -/
theorem completionMapIsTheTable : Obligations.CompletionMapIsTheTable := by
  unfold Obligations.CompletionMapIsTheTable
  intro w st fail data
  have success {q : SeqState} (hq : q ≠ .stopped) (h : st = q.code) (hok : fail = false) :
      decodeCW12 w = successRow q data := decodeCW12_of_success hq h hok
  refine ⟨decodeCW12_of_code (st := .stopped), fun h => ?_, decodeCW12_of_fail,
    success (q := .awaitModelWrite) nofun, success (q := .awaitModelRead) nofun,
    success (q := .awaitTransitionWrite) nofun, fun h hok hkeypad => ?_, fun h hok hnull => ?_,
    fun h hok hkeypad hnull => ?_, success (q := .awaitInstantWrite) nofun, success (q := .awaitInstantRead) nofun⟩
  · rw [decodeCW12, SeqState.ofCode_eq_none_iff.2 h]
    rfl
  · rw [success (q := .awaitTransitionRead) nofun h hok, hkeypad]
    rfl
  · rw [success (q := .awaitTransitionRead) nofun h hok, hnull]
    rfl
  · rw [success (q := .awaitTransitionRead) nofun h hok, successRow_key (isSentinel_eq_false_iff.2 ⟨hnull, hkeypad⟩)]

/-! ### Reserved event words (R87) -/

/-- Settles O32, kind by kind; BEGIN_WRITE has no reserved word. -/
theorem reservedEventWordsAreRefused : Obligations.ReservedEventWordsAreRefused := by
  unfold Obligations.ReservedEventWordsAreRefused
  intro w kind operand
  rcases decodeEV11_cases w with ⟨i, hrow, hw⟩ | ⟨hk, hw⟩ | ⟨hk, hw⟩
  · have hkind : kind ∈ [(0 : BitVec 3), 1, 2, 3, 5, 6] := List.mem_map_of_mem (f := Prod.fst) hrow
    have hne : kind ≠ 4 := by
      intro h
      rw [h] at hkind
      exact absurd hkind (by decide)
    rw [hw]
    have herr {e : DecodeError} : eventWithoutOperand operand i = .error e ↔ operand ≠ 0 ∧ e = .reservedEventWord :=
      eventWithoutOperand_error_iff
    exact ⟨herr.trans (by simp only [hkind, hne, true_and, and_true, false_and, or_false]), fun e h => (herr.1 h).2⟩
  · have hkind : kind = 4 := hk
    have hmask : operand &&& 0xfe = 0 ↔ operand.extractLsb' 1 7 = 0 := masked_eq_zero_iff
    rw [hw]
    by_cases hop : operand &&& 0xfe = 0
    · rw [if_pos hop]
      exact ⟨by simp [hkind, hmask.1 hop], nofun⟩
    · rw [if_neg hop]
      exact ⟨iff_of_true rfl (.inr ⟨hkind, mt hmask.2 hop⟩), fun e h => by cases h; rfl⟩
  · have hkind : kind = 7 := hk
    rw [hw]
    simp [hkind]

end Sys2Proof

namespace Sys2Proof.Machine

/-! ### The ports (R87): the format of an instruction says which configuration runs it -/

theorem accepts_of_cmd8 (c : Configuration) {i : Instr} (h : (encode i).format = .cmd8) :
    accepts c i = (c == .engAlone) := by
  cases i with
  | queryModel | reqTransition | reqInstant => rfl
  | _ => cases h

theorem accepts_of_rsp8 (c : Configuration) {st : SeqState} {i : Instr} (h : (encode i).format = .rsp8 st) :
    accepts c i = (c == .seqAlone) := by
  cases i with
  | rspModel | rspNull | rspKeypadPending | rspTransition | rspInstant => rfl
  | _ => cases h

theorem accepts_of_cw12 (c : Configuration) {i : Instr} (h : (encode i).format = .cw12) :
    accepts c i = (c == .seqAlone) := by
  cases i with
  | queryModel | reqTransition | reqInstant | rspModel | rspNull | rspKeypadPending | rspTransition | rspInstant
  | reset | start | tick | poll | fall | rise | beginRead | beginWrite => cases h
  | _ => rfl

theorem accepts_completionRow (c : Configuration) (st : SeqState) (fail : Bool) (data : Byte) :
    accepts c (completionRow (some st) fail data) = (c == .seqAlone) := by
  obtain ⟨-, henc⟩ := encode_completionRow st.code fail data
  rw [SeqState.ofCode_code] at henc
  exact accepts_of_cw12 c (by rw [henc]; rfl)

theorem orUndecodable_ok_iff {r : Except DecodeError Instr} {i : Instr} : orUndecodable r = .ok i ↔ r = .ok i := by
  cases r <;> simp [orUndecodable]

theorem operandlessEvents_accepts : ∀ row ∈ operandlessEvents,
    (accepts .top row.2 = true ↔ row.1 ≠ 6 ∧ row.1 ≠ 7) ∧ (accepts .engAlone row.2 = true ↔ row.1 ≠ 1) := by decide

/-- Which event words TOP and ENG alone accept, by kind (R87). -/
theorem accepts_of_decodeEV11 {w : EventWord} {i : Instr} (h : decodeEV11 w = .ok i) :
    (accepts .top i = true ↔ w.extractLsb' 8 3 ≠ 6 ∧ w.extractLsb' 8 3 ≠ 7) ∧
      (accepts .engAlone i = true ↔ w.extractLsb' 8 3 ≠ 1) := by
  rcases decodeEV11_cases w with ⟨j, hrow, hw⟩ | ⟨hk, hw⟩ | ⟨hk, hw⟩ <;> rw [hw] at h
  · obtain ⟨-, rfl⟩ := eventWithoutOperand_ok_iff.1 h
    exact operandlessEvents_accepts _ hrow
  · split_ifs at h
    cases h
    rw [hk]
    simp [accepts]
  · cases h
    rw [hk]
    simp [accepts]

/-- SEQ alone refuses every event word, a reserved one as undecodable and any other as not accepted (R87). -/
theorem step_seqAlone_event {s : State} {w : EventWord} {rest : List PortItem} (hc : s.conf = .seqAlone)
    (hp : s.port = .event w :: rest) : ∃ r, step s = .refused r := by
  cases hd : decodeItem s.seq.state (.event w) with
  | error r => exact ⟨r, step_of_undecodable hp hd⟩
  | ok i => exact ⟨.notAccepted, step_of_not_accepted hp hd (by rw [hc]; rfl)⟩

/-- Whatever is neither an event word nor a command byte is taken, and run, by SEQ alone (R88). -/
theorem acceptsInput_of_seqInput {c : Configuration} {st : SeqState} {item : PortItem} {i : Instr}
    (hd : decodeItem st item = .ok i) (hev : ∀ w, item ≠ .event w) (hcmd : ∀ b, item ≠ .command b) :
    acceptsInput c item i = true ↔ c = .seqAlone := by
  cases item with
  | event w => exact absurd rfl (hev w)
  | command b => exact absurd rfl (hcmd b)
  | response b =>
    obtain ⟨-, henc⟩ := encode_of_decodeRSP8 (orUndecodable_ok_iff.1 hd)
    have ha := accepts_of_rsp8 c (congrArg Encoded.format henc)
    simp [acceptsInput, takesInput, ha]
  | completion w =>
    cases hd
    have ha := accepts_of_cw12 c (congrArg Encoded.format (encode_decodeCW12 w).2)
    simp [acceptsInput, takesInput, ha]
  | done kind result data =>
    simp only [decodeItem] at hd
    split_ifs at hd <;> cases hd <;> simp [acceptsInput, takesInput, accepts_completionRow]
  | startSeq | resetSeq => cases hd; cases c <;> decide

/-- Settles O34, sort of input by sort of input. -/
theorem portsAcceptTheInputsOfTheirConfiguration : Obligations.PortsAcceptTheInputsOfTheirConfiguration := by
  unfold Obligations.PortsAcceptTheInputsOfTheirConfiguration
  refine ⟨fun w i h => ?event, fun c st b i h => ?command, fun c st item i => acceptsInput_of_seqInput,
    fun s rest hc => ⟨fun hp => ?start, fun hp => ?reset, fun w => step_seqAlone_event hc⟩⟩
  case event =>
    obtain ⟨htop, heng⟩ := accepts_of_decodeEV11 h
    exact ⟨by simpa [acceptsInput, takesInput] using htop, by simpa [acceptsInput, takesInput] using heng, rfl⟩
  case command =>
    obtain ⟨-, henc⟩ := encode_of_decodeCMD8 (orUndecodable_ok_iff.1 h)
    have ha := accepts_of_cmd8 c (congrArg Encoded.format henc)
    simp [acceptsInput, takesInput, ha]
  case start => exact step_of_accepted hp rfl (by rw [hc]; rfl)
  case reset => exact step_of_accepted hp rfl (by rw [hc]; rfl)

/-! ### The composition, and the events without effect (R92) -/

/-- Settles O50: no instruction changes it, and taking an input does not. -/
theorem noStepChangesTheConfiguration : Obligations.NoStepChangesTheConfiguration := by
  unfold Obligations.NoStepChangesTheConfiguration
  intro s t h
  rcases step_next_cases h with rfl | ⟨i, -, hx⟩
  · rfl
  · exact (exec_conf hx).trans s.takeItem_conf

/-- POLL changes nothing before a transfer has finished (R127). -/
theorem execPoll_of_not_completed {s : State} (h : completed s.eng = false) : execPoll s = .next s := by
  simp [execPoll, h]

/-- Settles O12: each handler leaves ENG as it is outside its condition. -/
theorem eventsWithNoEffectAreIdentitySteps : Obligations.EventsWithNoEffectAreIdentitySteps := by
  unfold Obligations.EventsWithNoEffectAreIdentitySteps
  refine fun s => ⟨fun d h => ?fall, fun h => ?rise, fun h => ?tick, fun h => ?poll⟩
  case fall =>
    have hsame := engFall_unsensed d s.eng (Bool.eq_false_iff.2 (mt (fallSensed_iff _).1 h))
    simp only [exec, execFall, hsame, State.setEng]
  case rise =>
    have hsame := engRise_unsensed s.eng (Bool.eq_false_iff.2 (mt (riseSensed_iff _).1 h))
    simp only [exec, execRise, hsame, State.setEng]
  case tick =>
    simp only [exec, execTick, engTick_outside _ _ h, State.setEng]
  case poll =>
    refine execPoll_of_not_completed (Bool.eq_false_iff.2 fun hc => ?_)
    rcases (completed_iff _).1 hc with hc | hc <;> simp [hc] at h

end Sys2Proof.Machine
end

section
/-! PROOFS. The events of ENG (spec/40_engine_ops.md R101 to R130). Each event has one equation per case, read from the
handlers' equations in Laws; what is emitted, and by what, is read from the list of everything an instruction does. -/

namespace Sys2Proof.Machine

/-! ### Starting a transfer (R102, R106) -/

theorem exec_beginRead_of_idle {s : State} (h : s.eng.status = .idle) :
    exec .beginRead s = .next (s.setEng engArmedRead) :=
  if_pos h

theorem exec_beginWrite_of_idle {s : State} (b : Byte) (h : s.eng.status = .idle) :
    exec (.beginWrite b) s = .next (s.setEng (engArmedWrite b)) :=
  if_pos h

/-- A tick turns `rearm_wait` off or leaves it (R114). -/
theorem engTick_rearmWait_of_false (n : Nat) {e : Eng} (h : e.rearmWait = false) : (engTick n e).rearmWait = false := by
  by_cases hp : e.status = .inProgress
  · by_cases hn : e.idleTicks + 1 ≤ n
    · rw [engTick_counts n e hp hn]
    · rw [engTick_fails n e hp (by omega)]
  · rwa [engTick_outside n e hp]

/-- Settles O3: what turns `rearm_wait` on is found in the list of everything an instruction does to ENG. -/
theorem beginReadArmsARead : Obligations.BeginReadArmsARead := by
  unfold Obligations.BeginReadArmsARead
  refine ⟨rfl, fun s h => exec_beginRead_of_idle h, fun s h => if_neg h, fun i s t h hs ht => ?_⟩
  cases exec_engDid h with
  | same he => simp [he, hs] at ht
  | reset _ he => simp [he, Eng.reset] at ht
  | tick _ he => simp [he, engTick_rearmWait_of_false _ hs] at ht
  | fall d he => simp [he, hs] at ht
  | rise _ he => simp [he, hs] at ht
  | taken _ _ he => simp [he, hs] at ht
  | begins _ _ _ ha | restarts _ _ _ ha =>
    rcases ha with he | ⟨b, he⟩
    · exact he
    · simp [he] at ht

/-- The event word of BEGIN_WRITE as a sum: kind 7 stands in bits 10:8 (R85, R86). -/
theorem eventWord_beginWrite (b : Byte) : 0x700 + b.setWidth 11 = eventWord 7 b := by
  revert b; decide

/-- Settles O4: a falling edge is sensed from the arming on, so the next one is counted. -/
theorem beginWriteArmsAWrite : Obligations.BeginWriteArmsAWrite := by
  unfold Obligations.BeginWriteArmsAWrite
  refine ⟨fun b => ?_, fun s b h => ⟨_, rfl, exec_beginWrite_of_idle b h, fun d => ⟨_, rfl, ?_⟩⟩, fun s b h => if_neg h⟩
  · rw [eventWord_beginWrite]
    simp [decodeEV11]
  · exact congrArg Eng.nbits (engFall_write d (engArmedWrite b) rfl rfl)

/-! ### The edges (R110, R112, R113) -/

/-- Settles O5, by the direction of the transfer. -/
theorem fallTransfersTheNextBit : Obligations.FallTransfersTheNextBit := by
  unfold Obligations.FallTransfersTheNextBit
  refine ⟨rfl, rfl, fun n e h => h.falling_room, fun s d => (eventsWithNoEffectAreIdentitySteps s).1 d, ?_⟩
  intro s d hp hf hn
  have hs : fallSensed s.eng = true := (fallSensed_iff _).2 ⟨hp, hf⟩
  refine ⟨fun hd => ⟨setBit s.eng.buf (7 - s.eng.nbits) d, fun j hj => ?_, ?_⟩, fun hd => ?_⟩
  · exact bitOf_setBit _ _ _ _ (by omega) hj
  · simp [exec, execFall, engFall_read d _ hs hd, State.setEng, hf]
  · simp [exec, execFall, engFall_write d _ hs hd, State.setEng, hf, driveOfBit]

/-- Settles O6: the two edges among the events with no effect. -/
theorem unsensedEdgesChangeNothing : Obligations.UnsensedEdgesChangeNothing := by
  unfold Obligations.UnsensedEdgesChangeNothing
  intro s
  obtain ⟨hfall, hrise, -, -⟩ := eventsWithNoEffectAreIdentitySteps s
  exact ⟨hfall, hrise⟩

/-- Settles O7: I4 gives the eight bits. -/
theorem riseMarksCompletion : Obligations.RiseMarksCompletion := by
  unfold Obligations.RiseMarksCompletion
  refine ⟨rfl, fun s hp hr => ?_, fun n s h hp => (h.rising_iff_full hp).1, fun s => (unsensedEdgesChangeNothing s).2⟩
  simp [exec, execRise, engRise_sensed _ ((riseSensed_iff _).2 ⟨hp, hr⟩), State.setEng]

/-! ### TICK (R114, R118, R122, R123) -/

theorem one_le_timeoutTicks : 1 ≤ Config.timeoutTicks := Nat.le_add_left 1 _

theorem exec_tick_counts {s : State} (hp : s.eng.status = .inProgress)
    (hn : s.eng.idleTicks + 1 ≤ Config.timeoutTicks) :
    exec .tick s = .next (s.setEng { s.eng with
      idleTicks := s.eng.idleTicks + 1, rearmWait := false,
      edgeSense := if s.eng.rearmWait then .falling else s.eng.edgeSense }) := by
  simp only [exec, execTick, engTick_counts _ _ hp hn]

/-- Settles O8: the window is at least one tick long, so the tick that re-arms a read just begun only counts. -/
theorem tickRearmsCountsAndTests : Obligations.TickRearmsCountsAndTests := by
  unfold Obligations.TickRearmsCountsAndTests
  refine ⟨rfl, one_le_timeoutTicks, fun s hp hn => exec_tick_counts hp hn, fun s hp hn => ?_, fun s hp => ?_,
    fun s he => ?_⟩
  · simp only [exec, execTick, engTick_fails _ _ hp hn, State.setEng]
  · obtain ⟨-, -, htick, -⟩ := eventsWithNoEffectAreIdentitySteps s
    exact htick hp
  · have hn : s.eng.idleTicks + 1 ≤ Config.timeoutTicks := by rw [he]; exact one_le_timeoutTicks
    rw [exec_tick_counts (by rw [he]; rfl) hn, he]
    rfl

/-! ### POLL (R126): its four deliveries -/

section
variable {s : State}

theorem exec_poll_okRead (hs : s.eng.status = .completedOk) (hp : s.eng.pending = .pendingRead) :
    exec .poll s = deliverRead 0 s.eng.buf (s.setEng (engTaken s.eng)) := by
  simp [exec, execPoll, completed, hs, hp]

theorem exec_poll_failedRead (hs : s.eng.status = .completedFailed) (hp : s.eng.pending = .pendingRead) :
    exec .poll s =
      deliverRead failCode (Config.failedReadByte s.freeIdx) (s.setEng (engTaken s.eng)).takeFree := by
  simp [exec, execPoll, completed, hs, hp]

theorem exec_poll_write (hc : completed s.eng = true) (hp : s.eng.pending = .pendingWrite) :
    exec .poll s = deliverWrite (resultCode s.eng) (s.setEng (engTaken s.eng)) := by
  simp [exec, execPoll, hc, hp]

theorem exec_poll_noPending (hc : completed s.eng = true) (hp : s.eng.pending = .none) :
    exec .poll s = .next (s.setEng (engTaken s.eng)) := by
  simp [exec, execPoll, hc, hp]

/-- Outside TOP a `Done` is only emitted (R33). -/
theorem toSequencer_of_not_top (hc : s.conf ≠ .top) (kind : Dir) (result data : Byte) :
    toSequencer kind result data s = .next s := by
  cases hconf : s.conf
  case top => exact absurd hconf hc
  case engAlone | seqAlone => simp only [toSequencer, hconf]

theorem deliverRead_of_not_top (hc : s.conf ≠ .top) (result data : Byte) :
    deliverRead result data s = .next (s.emit (.doneRead result data)) :=
  toSequencer_of_not_top (s := s.emit _) hc ..

theorem deliverWrite_of_not_top (hc : s.conf ≠ .top) (result : Byte) :
    deliverWrite result s = .next (s.emit (.doneWrite result)) :=
  toSequencer_of_not_top (s := s.emit _) hc ..

/-- In TOP a `Done` for a stopped SEQ is T_BAD_STATE (R161). -/
theorem toSequencer_top_stopped (hc : s.conf = .top) (hs : s.seq.state = .stopped) (kind : Dir) (result data : Byte) :
    toSequencer kind result data s = .refused .badState := by
  simp [toSequencer, hc, complete, kindDisagrees, hs, completionRow, runRow, execTBadStateStopped]

/-- In TOP a `Done` of the kind SEQ does not await is refused (R142). -/
theorem toSequencer_top_wrongKind {kind awaited : Dir} (hc : s.conf = .top) (hk : awaitedKind s.seq.state = some awaited)
    (hne : awaited ≠ kind) (result data : Byte) : toSequencer kind result data s = .refused .kindDisagrees := by
  have hs : s.seq.state ≠ .stopped := fun hs => by simp [hs, awaitedKind] at hk
  simp [toSequencer, hc, complete, kindDisagrees, hs, hk, hne]

/-- SEQ's reaction to a `Done` only adds emits. -/
theorem toSequencer_emits {kind : Dir} {result data : Byte} {t : State} (h : toSequencer kind result data s = .next t) :
    ∃ more, t.emits = s.emits ++ more := by
  by_cases hc : s.conf = .top
  · simp only [toSequencer, hc] at h
    obtain ⟨keys, _, _, ⟨⟨cmd, -, rfl⟩, -⟩, -⟩ := complete_reaction h
    exact ⟨keys ++ [cmd], List.append_assoc ..⟩
  · rw [toSequencer_of_not_top hc, Host.Outcome.next.injEq] at h
    exact ⟨[], by rw [← h, List.append_nil]⟩

end

/-- Settles O11, by the status and the kind of the completion. -/
theorem pollTakesTheCompletion : Obligations.PollTakesTheCompletion := by
  unfold Obligations.PollTakesTheCompletion
  refine ⟨rfl, fun s hc => ?_⟩
  have taken : (s.setEng (engTaken s.eng)).conf ≠ .top := hc
  have takenFree : (s.setEng (engTaken s.eng)).takeFree.conf ≠ .top := hc
  refine ⟨fun hs hp => ?_, fun hs hp => ?_, fun hs hp => ⟨Config.failedReadByte s.freeIdx, ?_⟩, fun hs hp => ?_⟩
  · exact (exec_poll_okRead hs hp).trans (deliverRead_of_not_top taken ..)
  · rw [exec_poll_write ((completed_iff _).2 (.inl hs)) hp, resultCode, if_pos hs]
    exact deliverWrite_of_not_top taken _
  · exact (exec_poll_failedRead hs hp).trans (deliverRead_of_not_top takenFree ..)
  · rw [exec_poll_write ((completed_iff _).2 (.inr hs)) hp, resultCode, if_neg (by simp [hs])]
    exact deliverWrite_of_not_top taken _

/-- The tag of a pending completion of a kind (R26). -/
def pendingOf : Dir → Pending
  | .read => .pendingRead
  | .write => .pendingWrite

theorem exists_pendingOf {p : Pending} (h : p ≠ .none) : ∃ kind, p = pendingOf kind := by
  cases p
  case none => exact absurd rfl h
  case pendingRead => exact ⟨.read, rfl⟩
  case pendingWrite => exact ⟨.write, rfl⟩

/-- A POLL of a pending completion hands SEQ a `Done` of the pending kind, with SEQ as it was (R126). -/
theorem exec_poll_delivers {s : State} {kind : Dir} (hc : completed s.eng = true) (hp : s.eng.pending = pendingOf kind) :
    ∃ u result data, u.conf = s.conf ∧ u.seq = s.seq ∧ exec .poll s = toSequencer kind result data u := by
  cases kind
  case write => exact ⟨(s.setEng (engTaken s.eng)).emit _, _, _, rfl, rfl, exec_poll_write hc hp⟩
  case read =>
    rcases (completed_iff _).1 hc with hs | hs
    · exact ⟨(s.setEng (engTaken s.eng)).emit _, _, _, rfl, rfl, exec_poll_okRead hs hp⟩
    · exact ⟨(s.setEng (engTaken s.eng)).takeFree.emit _, _, _, rfl, rfl, exec_poll_failedRead hs hp⟩

/-- Settles O14: a `Done` for a stopped SEQ, and one of the wrong kind, stop TOP. -/
theorem pollInUnreachedStates : Obligations.PollInUnreachedStates := by
  unfold Obligations.PollInUnreachedStates
  intro s hs
  have hc := (completed_iff _).2 hs
  have wrongKind {kind awaited : Dir} (htop : s.conf = .top) (hp : s.eng.pending = pendingOf kind)
      (hk : awaitedKind s.seq.state = some awaited) (hne : awaited ≠ kind) :
      exec .poll s = .refused .kindDisagrees := by
    obtain ⟨u, result, data, hconf, hseq, h⟩ := exec_poll_delivers hc hp
    rw [h, toSequencer_top_wrongKind (hconf.trans htop) (hseq ▸ hk) hne]
  refine ⟨exec_poll_noPending hc, fun htop hp hst => ?_, fun htop hp hk => wrongKind (kind := .read) htop hp hk (by simp),
    fun htop hp hk => wrongKind (kind := .write) htop hp hk (by simp)⟩
  obtain ⟨kind, hp⟩ := exists_pendingOf hp
  obtain ⟨u, result, data, hconf, hseq, h⟩ := exec_poll_delivers hc hp
  rw [h, toSequencer_top_stopped (hconf.trans htop) (hseq ▸ hst)]

/-! ### One `Done` per completion (R129), and what the events write of SEQ (R101) -/

theorem isDone_of_enteringCmd {st : SeqState} {cmd : Emit} (h : enteringCmd st = some cmd) : isDone cmd = false := by
  cases st <;> cases h <;> rfl

/-- What SEQ hands on are keys. -/
theorem Follows.countP_isDone {s : State} {keys : List Emit} {st : SeqState} {kp : Bool} (h : Follows s keys st kp) :
    keys.countP isDone = 0 := by
  cases h <;> rfl

/-- A reaction adds no `Done` beyond its keys. -/
theorem Reaction.emits_noDone {s t : State} {keys : List Emit} {st : SeqState} {kp : Bool} (h : Reaction s t keys st kp)
    (hkeys : keys.countP isDone = 0) : ∃ new, t.emits = s.emits ++ new ∧ new.countP isDone = 0 := by
  obtain ⟨⟨cmd, hcmd, rfl⟩, -⟩ := h
  exact ⟨keys ++ [cmd], List.append_assoc .., by simp [List.countP_append, hkeys, isDone_of_enteringCmd hcmd]⟩

/-- A POLL emits one `Done` for a pending completion, and none without one. -/
theorem PollDid.emits_done {s t : State} (h : PollDid s t) :
    ∃ new, t.emits = s.emits ++ new ∧
      new.countP isDone = if completed s.eng = true ∧ s.eng.pending ≠ .none then 1 else 0 := by
  cases h with
  | nothing hc ht => exact ⟨[], by simp [ht], by simp [hc]⟩
  | noPending _ hp ht => exact ⟨[], by simp [ht], by simp [hp]⟩
  | emits done k hc hp hdone _ ht => exact ⟨[done], by rw [ht], by simp [hc, hp, hdone]⟩
  | reacts kind result data done k hc hp hdone _ _ _ _ h =>
    obtain ⟨keys, st, kp, hr, hf⟩ := complete_reaction h
    obtain ⟨new, hnew, hcount⟩ := hr.emits_noDone hf.countP_isDone
    exact ⟨done :: new, by simpa using hnew, by simp [hc, hp, hdone, hcount]⟩

/-- Nothing but POLL emits a `Done`. -/
theorem exec_emits_noDone {i : Instr} {s t : State} (h : exec i s = .next t) (hi : i ≠ .poll) :
    ∃ new, t.emits = s.emits ++ new ∧ new.countP isDone = 0 := by
  cases exec_did h with
  | poll hpoll _ => exact absurd hpoll hi
  | reset _ ht | tick _ ht | fall _ _ ht | rise _ ht | begins _ _ _ _ _ _ _ _ _ ht => exact ⟨[], by simp [ht], rfl⟩
  | reacts keys st kp _ _ _ _ hr hf =>
    refine hr.emits_noDone ?_
    rcases hf with hf | ⟨rfl, -⟩
    · exact hf.countP_isDone
    · rfl

/-- Settles O43: POLL by what it did, everything else by the list of what an instruction does. -/
theorem oneDonePerCompletion : Obligations.OneDonePerCompletion := by
  unfold Obligations.OneDonePerCompletion
  intro i s t h
  by_cases hi : i = .poll
  · subst hi
    simpa [completed_iff] using (execPoll_did h).emits_done
  · simpa [hi] using exec_emits_noDone h hi

/-- A POLL writes SEQ only through the `Done` it emits. -/
theorem PollDid.done_of_seq_ne {s t : State} (h : PollDid s t) (hseq : t.seq ≠ s.seq) :
    ∃ x ∈ t.emits.drop s.emits.length, isDone x = true := by
  have hpend : completed s.eng = true ∧ s.eng.pending ≠ .none := by
    cases h with
    | nothing _ ht | noPending _ _ ht => exact absurd (congrArg State.seq ht) hseq
    | emits _ _ hc hp _ _ _ => exact ⟨hc, hp⟩
    | reacts _ _ _ _ _ hc hp _ _ _ _ _ _ => exact ⟨hc, hp⟩
  obtain ⟨new, hnew, hcount⟩ := h.emits_done
  rw [hnew, List.drop_left]
  exact List.countP_pos_iff.1 (by rw [hcount, if_pos hpend]; exact Nat.one_pos)

/-- Outside TOP POLL answers a next state whatever ENG holds. -/
theorem exec_poll_answers_of_not_top {s : State} (hc : s.conf ≠ .top) : ∃ t, exec .poll s = .next t := by
  cases hdone : completed s.eng
  · exact ⟨s, execPoll_of_not_completed hdone⟩
  · by_cases hp : s.eng.pending = .none
    · exact ⟨_, exec_poll_noPending hdone hp⟩
    · obtain ⟨kind, hp⟩ := exists_pendingOf hp
      obtain ⟨u, _, _, hconf, -, h⟩ := exec_poll_delivers hdone hp
      exact ⟨u, h.trans (toSequencer_of_not_top (hconf ▸ hc) ..)⟩

/-- Settles O39, event by event; POLL in TOP answers because what is pending is what SEQ awaits. -/
theorem engineEventsAreTotal : Obligations.EngineEventsAreTotal := by
  unfold Obligations.EngineEventsAreTotal
  refine ⟨fun s i hi => ?edges, fun s hc => ?alone, fun s hinv hc => ?top, fun s i hi => ?begins⟩
  case edges =>
    rcases hi with hi | rfl
    · cases i
      case fall | rise => exact ⟨_, rfl, rfl⟩
      all_goals cases hi
    · exact ⟨_, rfl, rfl⟩
  case alone =>
    obtain ⟨t, ht⟩ := exec_poll_answers_of_not_top hc
    exact ⟨t, ht, (execPoll_did ht).seq_eq_of_not_top hc⟩
  case top =>
    obtain ⟨t, ht⟩ := execPoll_top_answers hc (hinv.top hc)
    exact ⟨t, ht, (execPoll_did ht).done_of_seq_ne⟩
  case begins =>
    rcases hi with rfl | ⟨b, rfl⟩
    · exact ⟨fun h => ⟨_, exec_beginRead_of_idle h, rfl⟩, fun h => if_neg h⟩
    · exact ⟨fun h => ⟨_, exec_beginWrite_of_idle b h, rfl⟩, fun h => if_neg h⟩

end Sys2Proof.Machine
end

section
/-! PROOFS. Whole transfers of ENG under any interleaving (spec/40_engine_ops.md R111, R118, R130 to R132). Ticks inside
the window only count, polls and premature rising edges do nothing, so a trace leaves ENG as its falling edges alone do
(`Clocks.run`); what a write drives and a read assembles is then a fact about falling edges (`engFalls`). -/

namespace Sys2Proof.Machine

/-! ### Traces -/

theorem runTrace_cons_of_next {i : Instr} {s u : State} (h : exec i s = .next u) (rest : List Instr) :
    runTrace (i :: rest) s = runTrace rest u := by
  rw [runTrace, h, andThen_next]

theorem runTrace_append (p q : List Instr) (s : State) : runTrace (p ++ q) s = andThen (runTrace p s) (runTrace q) := by
  induction p generalizing s with
  | nil => rfl
  | cons i p ih => cases h : exec i s <;> simp [runTrace, h, andThen, ih]

theorem runTrace_append_of_next {p : List Instr} {s u : State} (h : runTrace p s = .next u) (q : List Instr) :
    runTrace (p ++ q) s = runTrace q u := by
  rw [runTrace_append, h, andThen_next]

theorem runTrace_singleton (i : Instr) (s : State) : runTrace [i] s = exec i s := by
  cases h : exec i s <;> simp [runTrace, h, andThen]

theorem ticksIn_cons (i : Instr) (rest : List Instr) : ticksIn (i :: rest) = ticksIn [i] + ticksIn rest := by
  simp [ticksIn, List.countP_cons, Nat.add_comm]

/-! ### A finished transfer (R130), and the timeout (R118) -/

/-- Settles O48: every event of the trace is an identity step. -/
theorem ticksAndEdgesChangeNothingOfAFinishedTransfer :
    Obligations.TicksAndEdgesChangeNothingOfAFinishedTransfer := by
  unfold Obligations.TicksAndEdgesChangeNothingOfAFinishedTransfer
  intro s trace hs htrace
  have hp : s.eng.status ≠ .inProgress := by rcases hs with hs | hs <;> simp [hs]
  obtain ⟨hfall, hrise, htick, -⟩ := eventsWithNoEffectAreIdentitySteps s
  have identity : ∀ i, i = .tick ∨ isEdge i = true → exec i s = .next s := by
    rintro i (rfl | hi)
    · exact htick hp
    · cases i
      case fall d => exact hfall d fun h => hp h.1
      case rise => exact hrise fun h => hp h.1
      all_goals cases hi
  induction trace with
  | nil => rfl
  | cons i rest ih =>
    rw [List.forall_mem_cons] at htrace
    rw [runTrace_cons_of_next (identity i htrace.1), ih htrace.2]

/-- One event of a transfer in progress, a TICK only inside the window: the transfer stays in progress unless a rising
edge completes it, and the counter counts the TICK. -/
theorem exec_inProgress_counts {i : Instr} {s : State} (hp : s.eng.status = .inProgress)
    (hi : i = .tick ∨ i = .poll ∨ isEdge i = true) (hn : s.eng.idleTicks + ticksIn [i] ≤ Config.timeoutTicks) :
    ∃ u, exec i s = .next u ∧ (u.eng.status = .inProgress ∨ u.eng.status = .completedOk) ∧
      u.eng.idleTicks = s.eng.idleTicks + ticksIn [i] := by
  rcases hi with rfl | rfl | hi
  · exact ⟨_, exec_tick_counts hp hn, .inl hp, rfl⟩
  · exact ⟨s, execPoll_of_not_completed (by simp [completed, hp]), .inl hp, rfl⟩
  · cases i
    case fall d => exact ⟨s.setEng (engFall d s.eng), rfl, .inl (by simpa using hp), by simp [ticksIn]⟩
    case rise =>
      refine ⟨s.setEng (engRise s.eng), rfl, ?_, by simp [ticksIn]⟩
      rcases engRise_status s.eng with h | ⟨-, h⟩
      · exact .inl (h.trans hp)
      · exact .inr h
    all_goals cases hi

/-- A transfer that no rising edge completes outlasts every trace inside the window, and its counter counts the TICKs. -/
theorem runTrace_counts {trace : List Instr} {s : State} (hp : s.eng.status = .inProgress)
    (hi : ∀ i ∈ trace, i = .tick ∨ i = .poll ∨ isEdge i = true)
    (hok : ∀ p q u, trace = p ++ q → runTrace p s = .next u → u.eng.status ≠ .completedOk)
    (hn : s.eng.idleTicks + ticksIn trace ≤ Config.timeoutTicks) :
    ∃ t, runTrace trace s = .next t ∧ t.eng.status = .inProgress ∧
      t.eng.idleTicks = s.eng.idleTicks + ticksIn trace := by
  induction trace generalizing s with
  | nil => exact ⟨s, rfl, hp, rfl⟩
  | cons i rest ih =>
    rw [List.forall_mem_cons] at hi
    rw [ticksIn_cons] at hn ⊢
    obtain ⟨u, hu, hstatus, hticks⟩ := exec_inProgress_counts hp hi.1 (by omega)
    have hup : u.eng.status = .inProgress :=
      hstatus.resolve_right (hok [i] rest u rfl ((runTrace_singleton i s).trans hu))
    have hrest : ∀ p q v, rest = p ++ q → runTrace p u = .next v → v.eng.status ≠ .completedOk := fun p q v hpq hv =>
      hok (i :: p) q v (by rw [hpq, List.cons_append]) ((runTrace_cons_of_next hu p).trans hv)
    obtain ⟨t, ht, htp, htt⟩ := ih hup hi.2 hrest (by omega)
    exact ⟨t, (runTrace_cons_of_next hu rest).trans ht, htp, by omega⟩

/-- Settles O9: the window counted out, the next tick is past it. -/
theorem theTickPastTheThresholdFails : Obligations.TheTickPastTheThresholdFails := by
  unfold Obligations.TheTickPastTheThresholdFails
  intro s trace hp h0 hi hok
  have counts (hn : ticksIn trace ≤ Config.timeoutTicks) :
      ∃ t, runTrace trace s = .next t ∧ t.eng.status = .inProgress ∧ t.eng.idleTicks = ticksIn trace := by
    simpa [h0] using runTrace_counts hp hi hok (by omega)
  refine ⟨counts, fun hn => ?_⟩
  obtain ⟨t, ht, htp, htt⟩ := counts hn.le
  refine ⟨t.setEng (engTick Config.timeoutTicks t.eng), ?_, ?_⟩
  · rw [runTrace_append_of_next ht]
    rfl
  · simp [engTick_fails _ _ htp (by omega : Config.timeoutTicks < t.eng.idleTicks + 1), htt, hn]

/-! ### ENG between two bits, and its falling edges in a row -/

/-- ENG in a transfer with `n` bits to go: the next falling edge is sensed, or after the last bit the next rising edge. -/
structure BitsLeft (n : Nat) (e : Eng) : Prop where
  inProgress : e.status = .inProgress
  rearmed : e.rearmWait = false
  count : e.nbits + n = 8
  sense : e.edgeSense = if n = 0 then .rising else .falling

theorem BitsLeft.sensesFall {n : Nat} {e : Eng} (h : BitsLeft (n + 1) e) : fallSensed e = true :=
  (fallSensed_iff e).2 ⟨h.inProgress, h.sense⟩

theorem BitsLeft.sensesRise {e : Eng} (h : BitsLeft 0 e) : riseSensed e = true :=
  (riseSensed_iff e).2 ⟨h.inProgress, h.sense⟩

/-- Between two bits a rising edge is not sensed (R112). -/
theorem BitsLeft.ignoresRise {n : Nat} {e : Eng} (h : BitsLeft (n + 1) e) : riseSensed e = false := by
  simp [riseSensed, h.sense]

/-- A sensed falling edge counts, and the eighth turns the sense (R110). -/
theorem engFall_counts (d : Bool) {e : Eng} (h : fallSensed e = true) :
    (engFall d e).nbits = e.nbits + 1 ∧
      (engFall d e).edgeSense = if e.nbits = 7 then .rising else e.edgeSense := by
  cases hd : e.dir
  · simp [engFall_read d e h hd]
  · simp [engFall_write d e h hd]

theorem BitsLeft.fall {n : Nat} {e : Eng} (h : BitsLeft (n + 1) e) (d : Bool) : BitsLeft n (engFall d e) := by
  obtain ⟨hbits, hsense⟩ := engFall_counts d h.sensesFall
  have hcount := h.count
  refine ⟨by rw [engFall_status, h.inProgress], by rw [engFall_rearmWait, h.rearmed], by omega, ?_⟩
  rw [hsense, h.sense, if_neg n.succ_ne_zero]
  exact if_congr (by omega) rfl rfl

theorem BitsLeft.withTicks {n : Nat} {e : Eng} (h : BitsLeft n e) (k : Nat) : BitsLeft n { e with idleTicks := k } :=
  { h with }

theorem bitsLeft_engArmedWrite (b : Byte) : BitsLeft 8 (engArmedWrite b) := ⟨rfl, rfl, rfl, rfl⟩

/-- ENG after falling edges with the levels `ds`, in order. -/
def engFalls (ds : List Bool) (e : Eng) : Eng := ds.foldl (fun e d => engFall d e) e

@[simp] theorem engFalls_nil (e : Eng) : engFalls [] e = e := rfl

@[simp] theorem engFalls_cons (d : Bool) (ds : List Bool) (e : Eng) :
    engFalls (d :: ds) e = engFalls ds (engFall d e) := rfl

theorem engFalls_concat (ds : List Bool) (d : Bool) (e : Eng) :
    engFalls (ds ++ [d]) e = engFall d (engFalls ds e) := List.foldl_concat ..

@[simp] theorem engFalls_dir (ds : List Bool) (e : Eng) : (engFalls ds e).dir = e.dir := by
  induction ds generalizing e with
  | nil => rfl
  | cons d ds ih => rw [engFalls_cons, ih, engFall_dir]

@[simp] theorem engFalls_pending (ds : List Bool) (e : Eng) : (engFalls ds e).pending = e.pending := by
  induction ds generalizing e with
  | nil => rfl
  | cons d ds ih => rw [engFalls_cons, ih, engFall_pending]

theorem engFalls_buf_of_write (ds : List Bool) {e : Eng} (hd : e.dir = .write) : (engFalls ds e).buf = e.buf := by
  induction ds generalizing e with
  | nil => rfl
  | cons d ds ih => rw [engFalls_cons, ih (by rw [engFall_dir, hd]), engFall_buf_of_write d e hd]

/-- The edge handler does not look at the activity counter (R25). -/
theorem engFall_withTicks (d : Bool) (e : Eng) (k : Nat) :
    engFall d { e with idleTicks := k } = { engFall d e with idleTicks := k } := by
  have hdir : e.dir = .read ∨ e.dir = .write := by cases e.dir <;> simp
  cases hs : fallSensed e
  · rw [engFall_unsensed d e hs]
    exact engFall_unsensed d _ hs
  · rcases hdir with hd | hd
    · rw [engFall_read d e hs hd]
      exact engFall_read d { e with idleTicks := k } hs hd
    · rw [engFall_write d e hs hd]
      exact engFall_write d { e with idleTicks := k } hs hd

theorem engFalls_withTicks (ds : List Bool) (e : Eng) (k : Nat) :
    engFalls ds { e with idleTicks := k } = { engFalls ds e with idleTicks := k } := by
  induction ds generalizing e with
  | nil => rfl
  | cons d ds ih => rw [engFalls_cons, engFall_withTicks, ih, engFalls_cons]

theorem BitsLeft.falls {n : Nat} (ds : List Bool) {e : Eng} (h : BitsLeft (ds.length + n) e) :
    BitsLeft n (engFalls ds e) := by
  induction ds generalizing e with
  | nil => simpa using h
  | cons d ds ih =>
    refine ih (BitsLeft.fall ?_ d)
    rwa [List.length_cons, Nat.add_right_comm] at h

/-- With fewer than eight bits out the next falling edge is sensed, and the count is theirs. -/
theorem BitsLeft.falls_room {ds : List Bool} {e : Eng} (h : BitsLeft 8 e) (hlen : ds.length < 8) :
    fallSensed (engFalls ds e) = true ∧ (engFalls ds e).nbits = ds.length := by
  obtain ⟨m, hm⟩ := Nat.exists_eq_add_of_lt hlen
  have hleft : BitsLeft (m + 1) (engFalls ds e) := BitsLeft.falls ds (by rwa [← Nat.add_assoc, ← hm])
  have hcount := hleft.count
  exact ⟨hleft.sensesFall, by omega⟩

/-- A write sends its byte from bit 7 down: after `ds` and one more falling edge the line carries bit `7 - ds.length`
(R110). -/
theorem engFalls_drive_of_write {ds : List Bool} (d : Bool) {e : Eng} (h : BitsLeft 8 e) (hd : e.dir = .write)
    (hlen : ds.length < 8) : (engFalls (ds ++ [d]) e).dataDrive = driveOfBit (bitOf e.buf (7 - ds.length)) := by
  obtain ⟨hs, hbits⟩ := h.falls_room hlen
  rw [engFalls_concat, engFall_write d _ hs (by rw [engFalls_dir, hd]), engFalls_buf_of_write ds hd, hbits]

/-- A read fills its buffer from bit 7 down (R111). -/
theorem bitOf_engFalls_buf_of_read {ds : List Bool} {e : Eng} (h : BitsLeft 8 e) (hd : e.dir = .read)
    (hlen : ds.length ≤ 8) {j : Nat} (hj : j < 8) :
    bitOf (engFalls ds e).buf j = (ds[7 - j]?).getD (bitOf e.buf j) := by
  induction ds using List.reverseRecOn with
  | nil => rfl
  | append_singleton ds d ih =>
    rw [List.length_append, List.length_singleton] at hlen
    obtain ⟨hs, hbits⟩ := h.falls_room hlen
    rw [engFalls_concat, engFall_read d _ hs (by rw [engFalls_dir, hd]), hbits, bitOf_setBit _ _ _ _ (by omega) hj,
      ih (by omega)]
    by_cases hlast : j = 7 - ds.length
    · have hidx : 7 - j = ds.length := by omega
      rw [if_pos hlast, hidx, List.getElem?_concat_length, Option.getD_some]
    · rw [if_neg hlast]
      by_cases hin : 7 - j < ds.length
      · rw [List.getElem?_append_left hin]
      · have hout : (ds ++ [d]).length ≤ 7 - j := by rw [List.length_append, List.length_singleton]; omega
        rw [List.getElem?_eq_none hout, List.getElem?_eq_none (by omega)]

/-! ### Traces that clock a transfer -/

/-- A trace of TICKs, POLLs and edges that clocks at most `n` bits and brings no rising edge once `n` bits are out. -/
inductive Clocks : Nat → List Instr → Prop
  | nil (n : Nat) : Clocks n []
  | tick {n : Nat} {rest : List Instr} : Clocks n rest → Clocks n (.tick :: rest)
  | poll {n : Nat} {rest : List Instr} : Clocks n rest → Clocks n (.poll :: rest)
  | fall {n : Nat} {rest : List Instr} (d : Bool) : Clocks n rest → Clocks (n + 1) (.fall d :: rest)
  | rise {n : Nat} {rest : List Instr} : Clocks (n + 1) rest → Clocks (n + 1) (.rise :: rest)

theorem Clocks.of_append {n : Nat} {p q : List Instr} (h : Clocks n (p ++ q)) : Clocks n p := by
  induction p generalizing n with
  | nil => exact .nil n
  | cons i p ih =>
    cases h with
    | tick h => exact .tick (ih h)
    | poll h => exact .poll (ih h)
    | fall d h => exact .fall d (ih h)
    | rise h => exact .rise (ih h)

/-- The level a falling edge carries. -/
def fallLevel : Instr → Option Bool
  | .fall d => some d
  | _ => none

/-- The levels of a trace's falling edges, in order. -/
def levels (trace : List Instr) : List Bool := trace.filterMap fallLevel

theorem levels_append (p q : List Instr) : levels (p ++ q) = levels p ++ levels q := List.filterMap_append ..

theorem isFall_eq (i : Instr) : isFall i = (fallLevel i).isSome := by
  cases i <;> rfl

theorem length_levels (trace : List Instr) : (levels trace).length = fallsIn trace := by
  rw [levels, fallsIn, List.length_filterMap_eq_countP]
  exact congrArg (List.countP · trace) (funext fun i => (isFall_eq i).symm)

theorem Clocks.length_levels_le {n : Nat} {trace : List Instr} (h : Clocks n trace) : (levels trace).length ≤ n := by
  induction h with
  | nil n => exact n.zero_le
  | tick _ ih | poll _ ih | rise _ ih => exact ih
  | fall d _ ih => exact Nat.succ_le_succ ih

/-- The commuting lemma of a transfer: inside the window ENG ends as its falling edges alone leave it, but for the count
of the TICKs. -/
theorem Clocks.run {n : Nat} {trace : List Instr} (h : Clocks n trace) {s : State} (hb : BitsLeft n s.eng)
    (hn : s.eng.idleTicks + ticksIn trace ≤ Config.timeoutTicks) :
    runTrace trace s = .next (s.setEng
      { engFalls (levels trace) s.eng with idleTicks := s.eng.idleTicks + ticksIn trace }) := by
  induction h generalizing s with
  | nil n => rfl
  | @tick n rest _ ih =>
    rw [ticksIn_cons] at hn ⊢
    have htick : ticksIn [.tick] = 1 := rfl
    have hu : exec .tick s = .next (s.setEng { s.eng with idleTicks := s.eng.idleTicks + 1 }) := by
      rw [exec_tick_counts hb.inProgress (by omega)]
      simp [hb.rearmed]
    have hrest := ih (s := s.setEng { s.eng with idleTicks := s.eng.idleTicks + 1 }) (hb.withTicks _)
      (by simp only [State.setEng_eng]; omega)
    rw [runTrace_cons_of_next hu, hrest, State.setEng_eng, engFalls_withTicks, htick, ← Nat.add_assoc]
    rfl
  | @poll n rest _ ih =>
    have hu : exec .poll s = .next s := execPoll_of_not_completed (by simp [completed, hb.inProgress])
    rw [runTrace_cons_of_next hu, ih hb hn]
    rfl
  | @fall n rest d _ ih =>
    have hu : exec (.fall d) s = .next (s.setEng (engFall d s.eng)) := rfl
    rw [runTrace_cons_of_next hu, ih (hb.fall d) (by rwa [State.setEng_eng, engFall_idleTicks]), State.setEng_eng,
      engFall_idleTicks]
    rfl
  | @rise n rest _ ih =>
    have hu : exec .rise s = .next s := by
      simp only [exec, execRise, engRise_unsensed _ hb.ignoresRise, State.setEng]
    rw [runTrace_cons_of_next hu, ih hb hn]
    rfl

/-- After the eighth bit the next rising edge completes the transfer (R113). -/
theorem Clocks.completes {body : List Instr} (h : Clocks 8 body) (h8 : (levels body).length = 8) {s : State}
    (hb : BitsLeft 8 s.eng) (hn : s.eng.idleTicks + ticksIn body ≤ Config.timeoutTicks) :
    runTrace (body ++ [.rise]) s = .next (s.setEng
      { engFalls (levels body) s.eng with
        idleTicks := s.eng.idleTicks + ticksIn body, dataDrive := .released, edgeSense := .off,
        status := .completedOk }) := by
  have hfull := (BitsLeft.falls (n := 0) (levels body) (by rwa [h8])).withTicks (s.eng.idleTicks + ticksIn body)
  rw [runTrace_append_of_next (h.run hb hn), runTrace_singleton]
  simp only [exec, execRise, State.setEng_eng, engRise_sensed _ hfull.sensesRise]
  rfl

/-! ### The pulses of the peer -/

theorem isEdge_iff (i : Instr) : isEdge i = true ↔ (∃ d, i = .fall d) ∨ i = .rise := by
  cases i <;> simp [isEdge]

/-- A trace whose edges are whole pulses but for a last rising edge clocks the bits of the pulses: before a pulse, and
between its two edges. -/
theorem clocks_of_pulses {body : List Instr} (hi : ∀ i ∈ body, i = .tick ∨ i = .poll ∨ isEdge i = true)
    (ds : List Bool) (h : body.filter isEdge ++ [.rise] = pulses ds ∨
      body.filter isEdge ++ [.rise] = .rise :: pulses ds) : Clocks ds.length body := by
  induction body generalizing ds with
  | nil => exact .nil _
  | cons i body ih =>
    rw [List.forall_mem_cons] at hi
    obtain ⟨hi, hbody⟩ := hi
    rw [isEdge_iff] at hi
    rcases hi with rfl | rfl | ⟨d, rfl⟩ | rfl
    · exact .tick (ih hbody ds h)
    · exact .poll (ih hbody ds h)
    · rw [List.filter_cons_of_pos rfl] at h
      cases ds with
      | nil => simp [pulses] at h
      | cons d' ds =>
        simp only [pulses, macroPulse, List.cons_append, List.nil_append, List.cons.injEq, reduceCtorEq, false_and,
          or_false] at h
        exact .fall d (ih hbody ds (.inr h.2))
    · rw [List.filter_cons_of_pos rfl] at h
      cases ds with
      | nil => simp [pulses] at h
      | cons d' ds =>
        have hnext : body.filter isEdge ++ [.rise] = pulses (d' :: ds) := by simpa [pulses, macroPulse] using h
        exact .rise (ih hbody (d' :: ds) (.inl hnext))

theorem levels_filter_isEdge (trace : List Instr) : levels (trace.filter isEdge) = levels trace := by
  rw [levels, List.filterMap_filter]
  refine congrArg (List.filterMap · trace) (funext fun i => ?_)
  cases i <;> rfl

theorem levels_pulses (ds : List Bool) : levels (pulses ds) = ds := by
  induction ds with
  | nil => rfl
  | cons d ds ih => exact congrArg (d :: ·) ih

section
variable {body : List Instr} {ds : List Bool}

theorem Interleaves.clocks (h : Interleaves (body ++ [.rise]) (pulses ds)) : Clocks ds.length body := by
  obtain ⟨hi, hedges⟩ := h
  refine clocks_of_pulses (fun i hm => hi i (List.mem_append_left _ hm)) ds (.inl ?_)
  rwa [List.filter_append] at hedges

theorem Interleaves.levels_eq (h : Interleaves (body ++ [.rise]) (pulses ds)) : levels body = ds := by
  obtain ⟨-, hedges⟩ := h
  have hl := congrArg levels hedges
  rwa [levels_filter_isEdge, levels_pulses, levels_append, show levels [.rise] = [] from rfl,
    List.append_nil] at hl

end

/-! ### The round trips (R131, R132) and the partial read (R111) -/

/-- What a POLL that hands SEQ the `Done` of a completion adds to what had been emitted before the transfer, in `s`:
outside TOP that `Done` is all, in TOP SEQ's reaction comes after it. -/
theorem exec_poll_emits {s t : State} {kind : Dir} {result data : Byte} {done : Emit} (hconf : t.conf = s.conf)
    (hemits : t.emits = s.emits)
    (h : exec .poll t = toSequencer kind result data ((t.setEng (engTaken t.eng)).emit done)) :
    (s.conf ≠ .top → ∃ u, exec .poll t = .next u ∧ u.eng.status = .idle ∧ u.emits = s.emits ++ [done]) ∧
      ∀ u, exec .poll t = .next u → ∃ more, u.emits = s.emits ++ done :: more := by
  have hadded : ((t.setEng (engTaken t.eng)).emit done).emits = s.emits ++ [done] := by simp [hemits]
  refine ⟨fun hc => ⟨_, h.trans (toSequencer_of_not_top ?_ ..), rfl, hadded⟩, fun u hu => ?_⟩
  · simpa [hconf] using hc
  · obtain ⟨more, hmore⟩ := toSequencer_emits (h.symm.trans hu)
    exact ⟨more, by rw [hmore, hadded, List.append_assoc, List.singleton_append]⟩

/-- Settles O51: a write in progress has all its levels from `engFalls_drive_of_write`, its end from `Clocks.completes`. -/
theorem writeRoundTrip : Obligations.WriteRoundTrip := by
  unfold Obligations.WriteRoundTrip
  intro s b ds body hidle hlen hint hticks
  have hb : BitsLeft 8 (s.setEng (engArmedWrite b)).eng := bitsLeft_engArmedWrite b
  have hclocks : Clocks 8 body := hlen ▸ hint.clocks
  simp only [runTrace_cons_of_next (exec_beginWrite_of_idle b hidle)]
  refine ⟨fun p d q hbody => ?_, ?_⟩
  · have hpre : Clocks 8 (p ++ [.fall d]) := Clocks.of_append (q := q) (by simpa [← hbody] using hclocks)
    have hlevels : levels (p ++ [.fall d]) = levels p ++ [d] := levels_append ..
    have hroom : (levels p).length < 8 := by simpa [hlevels] using hpre.length_levels_le
    have hwindow : ticksIn (p ++ [.fall d]) ≤ ticksIn body := by simp [hbody, ticksIn]
    refine ⟨_, hpre.run hb (by simpa using hwindow.trans hticks), ?_⟩
    simp only [State.setEng_eng, hlevels]
    rw [engFalls_drive_of_write d (bitsLeft_engArmedWrite b) rfl hroom, lineLevel_driveOfBit, length_levels]
    rfl
  · have h8 : (levels body).length = 8 := by rw [hint.levels_eq, hlen]
    refine ⟨_, hclocks.completes h8 hb (by simpa using hticks), rfl, rfl, ?_⟩
    refine exec_poll_emits (kind := .write) (result := 0) (data := 0) rfl rfl ?_
    exact exec_poll_write rfl (engFalls_pending ..)

/-- A read just begun after the TICK that re-arms it (R114). -/
def engRearmedRead : Eng := { engArmedRead with rearmWait := false, edgeSense := .falling, idleTicks := 1 }

theorem bitsLeft_engRearmedRead : BitsLeft 8 engRearmedRead := ⟨rfl, rfl, rfl, rfl⟩

theorem runTrace_beginRead_tick {s : State} (h : s.eng.status = .idle) (rest : List Instr) :
    runTrace (.beginRead :: .tick :: rest) s = runTrace rest (s.setEng engRearmedRead) := by
  have hn : (s.setEng engArmedRead).eng.idleTicks + 1 ≤ Config.timeoutTicks := one_le_timeoutTicks
  rw [runTrace_cons_of_next (exec_beginRead_of_idle h), runTrace_cons_of_next (exec_tick_counts rfl hn)]
  rfl

/-- The levels of `RXBYTE v`, bit 7 first (R91). -/
def byteLevels (v : Byte) : List Bool := (List.range 8).map fun k => bitOf v (7 - k)

theorem macroRxByte_eq_pulses (v : Byte) : macroRxByte v = pulses (byteLevels v) := rfl

/-- A read clocked with the levels of `v` assembles `v`. -/
theorem engFalls_buf_of_byteLevels (v : Byte) : (engFalls (byteLevels v) engRearmedRead).buf = v := by
  refine byte_ext _ _ fun j hj => ?_
  have hidx : 7 - (7 - j) = j := by omega
  rw [bitOf_engFalls_buf_of_read bitsLeft_engRearmedRead rfl (by simp [byteLevels]) hj, byteLevels,
    List.getElem?_map, List.getElem?_range (by omega), Option.map_some, Option.getD_some, hidx]

/-- Settles O52: the levels clocked in assemble the byte, `Clocks.completes` ends the read. -/
theorem readRoundTrip : Obligations.ReadRoundTrip := by
  unfold Obligations.ReadRoundTrip
  intro s v body hidle hint hticks
  rw [macroRxByte_eq_pulses] at hint
  have hclocks : Clocks 8 body := hint.clocks
  have hn : (s.setEng engRearmedRead).eng.idleTicks + ticksIn body ≤ Config.timeoutTicks := by
    rw [Nat.add_comm]
    exact hticks
  have hbuf : (engFalls (levels body) engRearmedRead).buf = v := by rw [hint.levels_eq, engFalls_buf_of_byteLevels]
  rw [runTrace_beginRead_tick hidle]
  refine ⟨_, hclocks.completes (by rw [hint.levels_eq]; rfl) bitsLeft_engRearmedRead hn, rfl, hbuf, ?_⟩
  subst hbuf
  refine exec_poll_emits (kind := .read) (result := 0) (data := (engFalls (levels body) engRearmedRead).buf) rfl rfl ?_
  exact exec_poll_okRead rfl (engFalls_pending ..)

theorem clocks_falls {n : Nat} {ds : List Bool} (h : ds.length ≤ n) : Clocks n (ds.map .fall) := by
  induction ds generalizing n with
  | nil => exact .nil n
  | cons d ds ih =>
    obtain ⟨m, rfl⟩ := Nat.exists_eq_add_one.2 (Nat.zero_lt_of_lt h)
    exact .fall d (ih (Nat.le_of_succ_le_succ h))

theorem levels_falls (ds : List Bool) : levels (ds.map .fall) = ds := by
  induction ds with
  | nil => rfl
  | cons d ds ih => exact congrArg (d :: ·) ih

theorem ticksIn_falls (ds : List Bool) : ticksIn (ds.map .fall) = 0 := by
  simp [ticksIn, List.countP_eq_zero]

/-- Settles O53, by the commuting lemma on falling edges alone. -/
theorem partialReadFillsFromTheTop : Obligations.PartialReadFillsFromTheTop := by
  unfold Obligations.PartialReadFillsFromTheTop
  intro s ds hidle hlen
  obtain ⟨m, hm⟩ := Nat.exists_eq_add_of_le hlen
  rw [runTrace_beginRead_tick hidle]
  refine ⟨_, (clocks_falls hlen).run bitsLeft_engRearmedRead (by rw [ticksIn_falls]; exact one_le_timeoutTicks), ?_, ?_⟩
  · have hleft : BitsLeft m (engFalls ds engRearmedRead) := BitsLeft.falls ds (hm ▸ bitsLeft_engRearmedRead)
    have hcount := hleft.count
    simp only [State.setEng_eng, levels_falls]
    omega
  · intro j hj
    simp only [State.setEng_eng, levels_falls]
    rw [bitOf_engFalls_buf_of_read bitsLeft_engRearmedRead rfl hlen hj]
    simp [engRearmedRead, bitOf]

end Sys2Proof.Machine
end

section
/-! PROOFS. SEQ's rules one by one (spec/41_sequencer.md R141 to R161). A row has one effect (`rowEffect`): the keys it
hands on, the state it enters, the flag after it. What answers a next state answers that effect (`State.reacted`), and
each rule is its row's effect written out. -/

namespace Sys2Proof.Machine

/-! ### The effect of a row -/

/-- What a reaction of SEQ does: the keys it hands on, the state it enters, the flag after it. -/
structure SeqEffect where
  keys : List Emit
  enters : SeqState
  kp : Bool

/-- The emits of a reaction: its keys, then the `Cmd` with which the state is entered (R163). -/
def SeqEffect.emits (eff : SeqEffect) : List Emit := eff.keys ++ (enteringCmd eff.enters).toList

/-- The state after a reaction of SEQ; in TOP its `Cmd` has armed ENG. -/
def State.reacted (s : State) (eff : SeqEffect) : State :=
  { s with
    seq := { state := eff.enters, kpPending := eff.kp }
    emits := s.emits ++ eff.emits
    eng := if s.conf = .top then armedFor eff.enters else s.eng }

@[simp] theorem State.reacted_conf (s : State) (eff : SeqEffect) : (s.reacted eff).conf = s.conf := rfl

@[simp] theorem State.reacted_seq (s : State) (eff : SeqEffect) :
    (s.reacted eff).seq = { state := eff.enters, kpPending := eff.kp } := rfl

@[simp] theorem State.reacted_emits (s : State) (eff : SeqEffect) : (s.reacted eff).emits = s.emits ++ eff.emits := rfl

theorem State.reacted_eng_of_top {s : State} (hc : s.conf = .top) (eff : SeqEffect) :
    (s.reacted eff).eng = armedFor eff.enters := if_pos hc

/-- In TOP a reaction arms ENG, whatever ENG held. -/
theorem State.reacted_setEng {s : State} (hc : s.conf = .top) (e : Eng) (eff : SeqEffect) :
    (s.setEng e).reacted eff = s.reacted eff := by
  simp [State.reacted, hc, State.setEng]

/-- The effect of each row of the completion map, with the flag at `kp` (R143 to R151). The other instructions are no
completions, and T_BAD_STATE has no effect (R161). -/
def rowEffect (i : Instr) (kp : Bool) : SeqEffect :=
  match i with
  | .tFail _ _ => ⟨[], .awaitModelWrite, false⟩
  | .tModelW _ => ⟨[], .awaitModelRead, kp⟩
  | .tModelR _ => ⟨[], .awaitTransitionWrite, kp⟩
  | .tTransW _ => ⟨[], .awaitTransitionRead, kp⟩
  | .tTransRKeypad => ⟨[], .awaitInstantWrite, true⟩
  | .tTransRNull => ⟨[], .awaitTransitionWrite, kp⟩
  | .tTransRKey data => ⟨[.key data kp], .awaitTransitionWrite, kp⟩
  | .tInstW _ => ⟨[], .awaitInstantRead, kp⟩
  | .tInstR data => ⟨[.key data kp], .awaitTransitionWrite, false⟩
  | _ => ⟨[], .stopped, kp⟩

theorem Reaction.eq_reacted {s t : State} {keys : List Emit} {st : SeqState} {kp : Bool}
    (h : Reaction s t keys st kp) : t = s.reacted ⟨keys, st, kp⟩ := by
  obtain ⟨⟨cmd, hcmd, rfl⟩, -⟩ := h
  simp [State.reacted, SeqEffect.emits, hcmd]

/-- A row in its state is its reaction. -/
theorem inState_of_eq {st : SeqState} {f : State → Result} {s : State} (hs : s.seq.state = st) :
    inState st f s = f s := if_pos hs

/-- Out of its state a row is refused (log entry 11). -/
theorem inState_of_ne {st : SeqState} {f : State → Result} {s : State} (hs : s.seq.state ≠ st) :
    inState st f s = .refused .preconditionFails := if_neg hs

theorem execTFail_of_started {st : SeqState} (hst : st ≠ .stopped) (data : Byte) (s : State) :
    execTFail st data s = inState st restart s := if_neg hst

theorem execTTransRKey_of_not_sentinel {data : Byte} (hd : isSentinel data = false) (s : State) :
    execTTransRKey data s = inState .awaitTransitionRead (onKeyByte data) s := by
  simp [execTTransRKey, hd]

/-- A row that answers a next state answers its effect. -/
theorem runRow_eq_reacted {i : Instr} {s t : State} (h : runRow i s = .next t) :
    t = s.reacted (rowEffect i s.seq.kpPending) := by
  cases i with
  | tFail st data =>
    by_cases hst : st = .stopped
    · rw [runRow, execTFail, if_pos hst] at h
      cases h
    · rw [runRow, execTFail_of_started hst, inState_next_iff] at h
      exact (restart_reaction h.2).eq_reacted
  | tModelW data | tTransW data | tInstW data =>
    exact (awaitReply_reaction rfl ((inState_next_iff ..).1 h).2).eq_reacted
  | tModelR data | tTransRNull => exact (issue_reaction ((inState_next_iff ..).1 h).2).eq_reacted
  | tTransRKeypad => exact (onKeypadByte_reaction ((inState_next_iff ..).1 h).2).eq_reacted
  | tTransRKey data =>
    cases hd : isSentinel data
    · rw [runRow, execTTransRKey_of_not_sentinel hd, inState_next_iff] at h
      exact (onKeyByte_reaction h.2).eq_reacted
    · rw [runRow, execTTransRKey, if_pos hd] at h
      cases h
  | tInstR data => exact (onInstantByte_reaction ((inState_next_iff ..).1 h).2).eq_reacted
  | _ => cases h

/-! ### What answers, in each composition -/

/-- `r` answers the reaction `eff` of SEQ from `s`, in TOP from an idle ENG. -/
def Reacts (r : Result) (s : State) (eff : SeqEffect) : Prop :=
  (s.conf = .top → s.eng.status = .idle) → r = .next (s.reacted eff)

theorem reacts_of_answers {r : Result} {s : State} {eff : SeqEffect} (heff : ∀ t, r = .next t → t = s.reacted eff)
    (h : (s.conf = .top → s.eng.status = .idle) → ∃ t, r = .next t) : Reacts r s eff := fun hidle => by
  obtain ⟨t, ht⟩ := h hidle
  rw [ht, heff t ht]

/-- The reaction written out: SEQ alone only emits its `Cmd`, in TOP that `Cmd` arms ENG (R16, R33). -/
theorem Reacts.alone_and_top {r : Result} {s : State} {eff : SeqEffect} (h : Reacts r s eff) :
    (s.conf ≠ .top →
      r = .next { s with seq := { state := eff.enters, kpPending := eff.kp }, emits := s.emits ++ eff.emits }) ∧
    (s.conf = .top → s.eng.status = .idle →
      r = .next { s with seq := { state := eff.enters, kpPending := eff.kp }, emits := s.emits ++ eff.emits,
                         eng := armedFor eff.enters }) := by
  refine ⟨fun hc => ?_, fun hc hidle => ?_⟩
  · simpa [State.reacted, hc] using h fun htop => absurd htop hc
  · simpa [State.reacted, hc] using h fun _ => hidle

theorem issue_reacts (c : Command) (s : State) :
    Reacts (issue c s) s ⟨[], stateInFlight c, s.seq.kpPending⟩ :=
  reacts_of_answers (fun _ h => (issue_reaction h).eq_reacted) (issue_answers c)

theorem restart_reacts (s : State) : Reacts (restart s) s ⟨[], .awaitModelWrite, false⟩ :=
  reacts_of_answers (fun _ h => (restart_reaction h).eq_reacted) (issue_answers (s := s.setKp false) .queryModel)

/-- The row a successful byte selects in SEQ's own state reacts. -/
theorem successRow_reacts {s : State} (data : Byte) (hs : s.seq.state ≠ .stopped) :
    Reacts (runRow (successRow s.seq.state data) s) s (rowEffect (successRow s.seq.state data) s.seq.kpPending) :=
  reacts_of_answers (fun _ => runRow_eq_reacted) (runRow_successRow_answers data hs)

/-! ### A completion runs the row its word decodes to -/

theorem exec_of_cw12 {i : Instr} (h : (encode i).format = .cw12) (s : State) : exec i s = runRow i s := by
  cases i with
  | queryModel | reqTransition | reqInstant | rspModel | rspNull | rspKeypadPending | rspTransition | rspInstant
  | reset | start | tick | poll | fall | rise | beginRead | beginWrite => cases h
  | _ => rfl

theorem exec_completionRow (st : SeqState) (fail : Bool) (data : Byte) (s : State) :
    exec (completionRow (some st) fail data) s = runRow (completionRow (some st) fail data) s := by
  obtain ⟨-, henc⟩ := encode_completionRow st.code fail data
  rw [SeqState.ofCode_code] at henc
  exact exec_of_cw12 (by rw [henc]; rfl) s

theorem decodeCW12_code (st : SeqState) (fail : Bool) (data : Byte) :
    decodeCW12 (completionWord st.code fail data) = completionRow (some st) fail data := by
  rw [decodeCW12_completionWord, SeqState.ofCode_code]

theorem completionRow_success {st : SeqState} (hst : st ≠ .stopped) (data : Byte) :
    completionRow (some st) false data = successRow st data := by
  simp [completionRow, hst]

/-- The row of a successful completion, run in its own state, reacts with its effect. -/
theorem successRow_reacts_of_state {s : State} {st : SeqState} (data : Byte) (hs : s.seq.state = st)
    (hst : st ≠ .stopped) :
    Reacts (exec (successRow st data) s) s (rowEffect (successRow st data) s.seq.kpPending) := by
  subst hs
  rw [← completionRow_success hst, exec_completionRow, completionRow_success hst]
  exact successRow_reacts data hst

/-! ### START and the command bytes (R141, R153 to R155) -/

theorem exec_start_reacts {s : State} (hs : s.seq.state = .stopped) :
    Reacts (exec .start s) s ⟨[], .awaitModelWrite, false⟩ := by
  have h : exec .start s = restart s := if_pos hs
  exact h ▸ restart_reacts s

/-- Settles O15: START is the restart of a stopped SEQ. -/
theorem startIssuesTheModelQuery : Obligations.StartIssuesTheModelQuery := by
  unfold Obligations.StartIssuesTheModelQuery
  refine ⟨rfl, fun s hc hs => ?_, fun s hc hs hidle => ?_, fun s hinv hc => ?_, fun s hs => if_neg hs⟩
  · exact (exec_start_reacts hs).alone_and_top.1 hc
  · exact (exec_start_reacts hs).alone_and_top.2 hc hidle
  · exact (hinv.top hc).stopped_iff_idle.1

/-- A command in turn is issued by SEQ (R153 to R155). -/
theorem commandRow_reacts {c : Command} {s : State} (hc : s.conf ≠ .engAlone)
    (hturn : issuedFrom c s.seq.state = true) :
    Reacts (commandRow c s) s ⟨[], stateInFlight c, s.seq.kpPending⟩ := by
  have h : commandRow c s = issue c s := by
    cases hconf : s.conf
    case engAlone => exact absurd hconf hc
    case top | seqAlone => simp only [commandRow, hconf, hturn, if_true]
  exact h ▸ issue_reacts c s

theorem issuedFrom_reqTransition {st : SeqState}
    (h : st = .awaitModelRead ∨ st = .awaitTransitionRead ∨ st = .awaitInstantRead) :
    issuedFrom .reqTransition st = true := by
  rcases h with rfl | rfl | rfl <;> rfl

/-- Settles O16, by the composition: ENG's client hands the byte over, SEQ issues it. -/
theorem commandRowsIssueTheirByte : Obligations.CommandRowsIssueTheirByte := by
  unfold Obligations.CommandRowsIssueTheirByte
  refine ⟨rfl, rfl, rfl, fun s hc hidle => ?_, fun s hc => ?_, fun s hc hidle => ?_⟩
  · have hands (c : Command) : commandRow c s = .next (s.setEng (engArmedWrite (commandByte c))) :=
      (commandRow_engAlone c hc).trans (if_pos hidle)
    exact ⟨hands .queryModel, hands .reqTransition, hands .reqInstant⟩
  · have issues {c : Command} (hturn : issuedFrom c s.seq.state = true) :=
      (commandRow_reacts (s := s) (by simp [hc]) hturn).alone_and_top.1 (by simp [hc])
    exact ⟨issues (c := .queryModel) rfl, fun hs => issues (c := .reqTransition) (issuedFrom_reqTransition hs),
      fun hs => issues (c := .reqInstant) (by rw [hs]; rfl)⟩
  · have issues {c : Command} (hturn : issuedFrom c s.seq.state = true) :=
      (commandRow_reacts (s := s) (by simp [hc]) hturn).alone_and_top.2 hc hidle
    exact ⟨issues (c := .queryModel) rfl, fun hs => issues (c := .reqTransition) (issuedFrom_reqTransition hs),
      fun hs => issues (c := .reqInstant) (by rw [hs]; rfl)⟩

/-! ### The rows of the completion map (R143 to R151, R161) -/

/-- Settles O17, for each of the three write rows. -/
theorem writeRowsArmTheReply : Obligations.WriteRowsArmTheReply := by
  unfold Obligations.WriteRowsArmTheReply
  intro s data a b i hrow hs
  simp only [List.mem_cons, Prod.mk.injEq, List.not_mem_nil, or_false] at hrow
  rcases hrow with ⟨rfl, rfl, rfl⟩ | ⟨rfl, rfl, rfl⟩ | ⟨rfl, rfl, rfl⟩
  all_goals exact ⟨decodeCW12_code .., (successRow_reacts_of_state data hs nofun).alone_and_top⟩

/-- Settles O18. -/
theorem modelByteIsDiscarded : Obligations.ModelByteIsDiscarded :=
  fun _ data hs => ⟨decodeCW12_code .awaitModelRead false data,
    (successRow_reacts_of_state data hs nofun).alone_and_top⟩

/-- Settles O19. -/
theorem keypadSentinelAsksForTheInstant : Obligations.KeypadSentinelAsksForTheInstant :=
  ⟨rfl, rfl, fun _ hs => (successRow_reacts_of_state rspKeypadByte hs nofun).alone_and_top⟩

/-- Settles O20. -/
theorem nullSentinelAsksAgain : Obligations.NullSentinelAsksAgain :=
  ⟨rfl, rfl, fun _ hs => (successRow_reacts_of_state rspNullByte hs nofun).alone_and_top⟩

/-- Settles O21: the row of a byte that is no sentinel is T_TRANS_R_KEY. -/
theorem transitionByteIsHandedOn : Obligations.TransitionByteIsHandedOn := by
  unfold Obligations.TransitionByteIsHandedOn
  intro s data hs hkeypad hnull
  have hrow : successRow .awaitTransitionRead data = .tTransRKey data :=
    successRow_key (isSentinel_eq_false_iff.2 ⟨hnull, hkeypad⟩)
  refine ⟨(decodeCW12_code .awaitTransitionRead false data).trans hrow, ?_⟩
  have hreacts := successRow_reacts_of_state data hs nofun
  rw [hrow] at hreacts
  exact hreacts.alone_and_top

/-- Settles O22. -/
theorem instantByteIsHandedOnAndTheFlagCleared : Obligations.InstantByteIsHandedOnAndTheFlagCleared :=
  fun _ data hs => ⟨decodeCW12_code .awaitInstantRead false data,
    (successRow_reacts_of_state data hs nofun).alone_and_top⟩

/-- A failed completion of a started SEQ restarts it. -/
theorem tFail_reacts {s : State} (data : Byte) (hs : s.seq.state ≠ .stopped) :
    Reacts (exec (.tFail s.seq.state data) s) s ⟨[], .awaitModelWrite, false⟩ := by
  have h : exec (.tFail s.seq.state data) s = restart s := (execTFail_of_started hs data s).trans (inState_of_eq rfl)
  exact h ▸ restart_reacts s

/-- Settles O24. -/
theorem anyFailureRestarts : Obligations.AnyFailureRestarts := by
  unfold Obligations.AnyFailureRestarts
  intro s data hs
  refine ⟨?_, (tFail_reacts data hs).alone_and_top⟩
  rw [decodeCW12_code, completionRow, if_neg hs, if_pos rfl]

/-- Settles O23: each class is run as its row. -/
theorem responseClassesHaveTheEffectOfTheirRow : Obligations.ResponseClassesHaveTheEffectOfTheirRow := by
  unfold Obligations.ResponseClassesHaveTheEffectOfTheirRow
  intro s hidle armed
  refine ⟨fun d hs => ⟨rfl, ?model⟩, fun hs => ⟨rfl, ?null, rfl, ?keypad⟩, fun up scancode hs hkeypad hnull => ?key,
    fun up scancode hs => ⟨?decoded, ?instant⟩⟩
  case model => exact successRow_reacts_of_state d hs nofun hidle
  case null => exact successRow_reacts_of_state rspNullByte hs nofun hidle
  case keypad => exact successRow_reacts_of_state rspKeypadByte hs nofun hidle
  case key =>
    have hsent : isSentinel (responseByte up scancode) = false := isSentinel_eq_false_iff.2 ⟨hnull, hkeypad⟩
    have hreacts := successRow_reacts_of_state (responseByte up scancode) hs nofun hidle
    rw [successRow_key hsent] at hreacts
    exact ⟨by simp [decodeRSP8_transition hsent], hreacts⟩
  case decoded => simp [decodeRSP8]
  case instant => exact successRow_reacts_of_state (responseByte up scancode) hs nofun hidle

/-- Settles O25: before START ENG is idle, so POLL finds nothing. -/
theorem badStateCompletionsAreRefused : Obligations.BadStateCompletionsAreRefused := by
  unfold Obligations.BadStateCompletionsAreRefused
  intro s fail data
  refine ⟨decodeCW12_completionWord 0 fail data, decodeCW12_completionWord 7 fail data, rfl, rfl, fun hinv hc hs => ?_⟩
  have hidle : s.eng.status = .idle := (hinv.top hc).stopped_iff_idle.1 hs
  exact execPoll_of_not_completed (by simp [completed, hidle])

/-- A transition byte out of its state is refused, a sentinel or not. -/
theorem execTTransRKey_of_ne {s : State} (data : Byte) (hs : s.seq.state ≠ .awaitTransitionRead) :
    execTTransRKey data s = .refused .preconditionFails := by
  rw [execTTransRKey, inState_of_ne hs, ite_self]

/-- Settles O26, row by row. -/
theorem rowsOutOfTheirStateAreRefused : Obligations.RowsOutOfTheirStateAreRefused := by
  unfold Obligations.RowsOutOfTheirStateAreRefused
  intro s data up scancode
  refine ⟨inState_of_ne, fun hs => ⟨inState_of_ne hs, inState_of_ne hs⟩, inState_of_ne, fun hs => ?_, inState_of_ne,
    fun hs => ⟨inState_of_ne hs, inState_of_ne hs⟩, fun st hst hs => ?_⟩
  · exact ⟨inState_of_ne hs, inState_of_ne hs, execTTransRKey_of_ne data hs, inState_of_ne hs, inState_of_ne hs,
      execTTransRKey_of_ne (responseByte up scancode) hs⟩
  · exact (execTFail_of_started hst data s).trans (inState_of_ne hs)

end Sys2Proof.Machine
end

section
/-! PROOFS. SEQ over all instructions (spec/41_sequencer.md R142, R152, R162 to R164). A completion is dispatched to the
row its word decodes to, and its effect is read from that row; what writes SEQ at all is listed once (`SeqDid`). -/

namespace Sys2Proof.Machine

/-! ### The dispatch of a completion (R142) -/

/-- SEQ's state disagrees with no completion if it is stopped, and with none of the kind it awaits. -/
theorem kindDisagrees_eq_false {st : SeqState} {kind : Dir} (h : st = .stopped ∨ awaitedKind st = some kind) :
    kindDisagrees st kind = false := by
  rcases h with rfl | h
  · rfl
  · simp [kindDisagrees, h]

theorem kindDisagrees_eq_true {st : SeqState} {kind : Dir} (hs : st ≠ .stopped) (h : awaitedKind st ≠ some kind) :
    kindDisagrees st kind = true := by
  simp [kindDisagrees, hs, h]

/-- In TOP a `Done` of the awaited kind runs the row its completion word decodes to. -/
theorem toSequencer_top_eq_exec {s : State} {kind : Dir} {result : Byte} {fail : Bool} (hc : s.conf = .top)
    (hk : awaitedKind s.seq.state = some kind) (hf : failBit result = fail) (data : Byte) :
    toSequencer kind result data s = exec (decodeCW12 (completionWord s.seq.state.code fail data)) s := by
  simp [toSequencer, hc, complete, kindDisagrees_eq_false (.inr hk), hf, decodeCW12_code, exec_completionRow]

/-- Settles O13, by the status and the kind of the completion; the byte of a failed read is the model's free one. -/
theorem pollInTopRunsTheCompletionRow : Obligations.PollInTopRunsTheCompletionRow := by
  unfold Obligations.PollInTopRunsTheCompletionRow
  intro s hc
  refine ⟨fun hs hp hk => ?_, fun hs hp hk => ?_, fun hs hp hk => ⟨Config.failedReadByte s.freeIdx, ?_⟩,
    fun hs hp hk => ?_⟩
  · rw [exec_poll_okRead hs hp]
    exact toSequencer_top_eq_exec (s := (s.setEng (engTaken s.eng)).emit (.doneRead 0 s.eng.buf)) hc hk failBit_zero _
  · rw [exec_poll_write ((completed_iff _).2 (.inl hs)) hp, resultCode, if_pos hs]
    exact toSequencer_top_eq_exec (s := (s.setEng (engTaken s.eng)).emit (.doneWrite 0)) hc hk failBit_zero 0
  · rw [exec_poll_failedRead hs hp]
    exact toSequencer_top_eq_exec (s := (s.setEng (engTaken s.eng)).takeFree.emit (.doneRead failCode _)) hc hk
      failBit_failCode _
  · rw [exec_poll_write ((completed_iff _).2 (.inr hs)) hp, resultCode, if_neg (by simp [hs])]
    exact toSequencer_top_eq_exec (s := (s.setEng (engTaken s.eng)).emit (.doneWrite failCode)) hc hk failBit_failCode 0

/-- Any non-zero result is a failure (R79). -/
theorem failBit_eq_decide (result : Byte) : failBit result = decide (result ≠ 0) := by
  rw [failBit, bne, beq_eq_decide, decide_not]

/-- Settles O27: the port decodes a `Done` to the row of its completion word, if the kind agrees. -/
theorem doneSelectsOneRow : Obligations.DoneSelectsOneRow := by
  unfold Obligations.DoneSelectsOneRow
  intro s kind result data rest hc hp
  refine ⟨fun hs hk => ?_, fun hagrees => ?_⟩
  · exact step_of_undecodable hp (by simp [decodeItem, kindDisagrees_eq_true hs hk])
  · rw [decodeCW12_code, ← failBit_eq_decide]
    have hd : decodeItem s.seq.state (.done kind result data) = .ok
        (completionRow (some s.seq.state) (failBit result) (if kind = .read then data else 0)) := by
      simp [decodeItem, kindDisagrees_eq_false hagrees]
    exact step_of_accepted hp hd (by simp [acceptsInput, takesInput, accepts_completionRow, hc])

/-! ### SEQ depends on the completion only (R164) -/

/-- A `Done` that SEQ alone answers has the effect of the row of its completion word. -/
theorem step_done_eq_reacted {s t : State} {kind : Dir} {result data : Byte} {rest : List PortItem}
    (hc : s.conf = .seqAlone) (hp : s.port = .done kind result data :: rest) (h : step s = .next t) :
    t = State.reacted { s with port := rest }
      (rowEffect (completionRow (some s.seq.state) (decide (result ≠ 0)) (if kind = .read then data else 0))
        s.seq.kpPending) := by
  obtain ⟨hrefused, hrow⟩ := doneSelectsOneRow s kind result data rest hc hp
  by_cases hagrees : s.seq.state = .stopped ∨ awaitedKind s.seq.state = some kind
  · rw [hrow hagrees, decodeCW12_code, exec_completionRow] at h
    exact runRow_eq_reacted h
  · rw [not_or] at hagrees
    rw [hrefused hagrees.1 hagrees.2] at h
    cases h

/-- Settles O47: the two runs have one effect, since the state fixes the flag. -/
theorem sequencerDependsOnTheCompletionOnly : Obligations.SequencerDependsOnTheCompletionOnly := by
  unfold Obligations.SequencerDependsOnTheCompletionOnly
  intro s u t v kind r r' data ps pu hs hu hstate hkps hkpu hr hps hpu hst huv
  have ht := step_done_eq_reacted hs hps hst
  have hv := step_done_eq_reacted hu hpu huv
  rw [← hstate, hkpu, ← hstate, ← hkps, ← decide_eq_decide.2 (not_congr hr)] at hv
  exact ⟨by rw [ht, hv]; rfl, _, by rw [ht]; rfl, by rw [hv]; rfl⟩

/-! ### The keys of a POLL in TOP (R152) -/

/-- The keys a row emits are the keys of its effect: its `Cmd` is none. -/
theorem filter_isKey_rowEffect_emits (i : Instr) (kp : Bool) :
    (rowEffect i kp).emits.filter isKey = (rowEffect i kp).keys := by
  cases i <;> rfl

/-- Which bytes the rows hand on: the transition byte that is no sentinel, and every instant byte. -/
theorem completionRow_keys (st : SeqState) (fail : Bool) (data : Byte) (kp : Bool) :
    (rowEffect (completionRow (some st) fail data) kp).keys =
      if fail = false ∧ ((st = .awaitTransitionRead ∧ data ≠ 0x79 ∧ data ≠ 0x7b) ∨ st = .awaitInstantRead)
      then [.key data kp] else [] := by
  cases fail
  case true => cases st <;> rfl
  case false =>
    cases st
    case awaitTransitionRead =>
      by_cases hkeypad : data = 0x79
      · rw [hkeypad]; rfl
      by_cases hnull : data = 0x7b
      · rw [hnull]; rfl
      have hrow : completionRow (some .awaitTransitionRead) false data = .tTransRKey data :=
        successRow_key (isSentinel_eq_false_iff.2 ⟨hnull, hkeypad⟩)
      rw [hrow]
      exact (if_pos ⟨rfl, .inl ⟨rfl, hkeypad, hnull⟩⟩).symm
    all_goals rfl

/-- The keys that a `Done` delivered in TOP adds are those of its completion row. -/
theorem toSequencer_top_keys {s t : State} {kind : Dir} {result data : Byte} {fail : Bool} {done : Emit}
    (hc : s.conf = .top) (hf : failBit result = fail) (hdone : isKey done = false)
    (h : toSequencer kind result data (s.emit done) = .next t) :
    ∃ new, t.emits = s.emits ++ new ∧ new.filter isKey =
      (rowEffect (completionRow (some s.seq.state) fail data) s.seq.kpPending).keys := by
  subst hf
  have hrow : runRow (completionRow (some s.seq.state) (failBit result) data) (s.emit done) = .next t := by
    simp only [toSequencer, State.emit_conf, hc, complete] at h
    split_ifs at h
    exact h
  rw [runRow_eq_reacted hrow]
  exact ⟨done :: (rowEffect (completionRow (some s.seq.state) (failBit result) data) s.seq.kpPending).emits, by simp,
    by simp [hdone, filter_isKey_rowEffect_emits]⟩

/-- A write completion hands on no key: the states that hand one on await a read. -/
theorem toSequencer_top_write_keys {s t : State} {result : Byte} {done : Emit} (hc : s.conf = .top)
    (hdone : isKey done = false) (h : toSequencer .write result 0 (s.emit done) = .next t) :
    ∃ new, t.emits = s.emits ++ new ∧ new.filter isKey = [] := by
  have hnotread : awaitedKind s.seq.state ≠ some .read := fun hk => by
    rw [toSequencer_top_wrongKind (s := s.emit done) (kind := .write) hc hk nofun] at h
    cases h
  obtain ⟨new, hnew, hkeys⟩ := toSequencer_top_keys hc rfl hdone h
  refine ⟨new, hnew, hkeys.trans ?_⟩
  rw [completionRow_keys, if_neg]
  rintro ⟨-, ⟨hs, -⟩ | hs⟩ <;> exact hnotread (by rw [hs]; rfl)

/-- Settles O44, by the kind and the status of the completion. -/
theorem keysOfAPollInTop : Obligations.KeysOfAPollInTop := by
  unfold Obligations.KeysOfAPollInTop
  intro s t hc h
  cases hdone : completed s.eng
  case false =>
    have hs : s.eng.status ≠ .completedOk := fun hs => by simp [completed, hs] at hdone
    have ht : exec .poll s = .next s := execPoll_of_not_completed hdone
    cases ht.symm.trans h
    exact ⟨[], by simp, by simp [hs]⟩
  case true =>
    cases hp : s.eng.pending
    case none =>
      cases (exec_poll_noPending hdone hp).symm.trans h
      exact ⟨[], by simp, by simp⟩
    case pendingWrite =>
      obtain ⟨new, hnew, hkeys⟩ :=
        toSequencer_top_write_keys (s := s.setEng (engTaken s.eng)) hc rfl ((exec_poll_write hdone hp).symm.trans h)
      exact ⟨new, hnew, by simp [hkeys]⟩
    case pendingRead =>
      rcases (completed_iff _).1 hdone with hs | hs
      · obtain ⟨new, hnew, hkeys⟩ :=
          toSequencer_top_keys (s := s.setEng (engTaken s.eng)) hc failBit_zero rfl
            ((exec_poll_okRead hs hp).symm.trans h)
        exact ⟨new, hnew, by simp [hkeys, completionRow_keys, hs]⟩
      · obtain ⟨new, hnew, hkeys⟩ :=
          toSequencer_top_keys (s := (s.setEng (engTaken s.eng)).takeFree) hc failBit_failCode rfl
            ((exec_poll_failedRead hs hp).symm.trans h)
        exact ⟨new, hnew, by simp [hkeys, completionRow_keys, hs]⟩

/-! ### What writes SEQ (R162, R163) -/

theorem isCmd_of_isDone {x : Emit} (h : isDone x = true) : isCmd x = false := by
  cases x with
  | doneRead | doneWrite => rfl
  | key | cmdRead | cmdWrite => cases h

/-- What SEQ hands on are keys, no `Cmd`. -/
theorem Follows.filter_isCmd {s : State} {keys : List Emit} {st : SeqState} {kp : Bool} (h : Follows s keys st kp) :
    keys.filter isCmd = [] := by
  cases h <;> rfl

/-- A reaction to a completion or to START goes along an edge of the state graph (R162). -/
theorem Follows.seqEdge {s : State} {keys : List Emit} {st : SeqState} {kp : Bool} (h : Follows s keys st kp) :
    seqEdge s.seq.state st = true := by
  cases h with
  | fail _ => cases s.seq.state <;> rfl
  | modelW hs | modelR hs | transW hs | keypad hs | null hs | key _ hs _ | instW hs | instR _ hs | start hs =>
    rw [hs]; rfl

/-- Everything an instruction that answers a next state can have done to SEQ's state. -/
inductive SeqDid (i : Instr) (s t : State) : Prop
  | same : t.seq.state = s.seq.state → SeqDid i s t
  | reset : i = .reset → t.seq.state = .stopped → SeqDid i s t
  /-- a state is entered, along an edge or again, and its `Cmd` is the last emit and the only `Cmd` -/
  | enters (new : List Emit) (cmd : Emit) : (seqEdge s.seq.state t.seq.state = true ∨ t.seq.state = s.seq.state) →
      t.emits = s.emits ++ new ++ [cmd] → enteringCmd t.seq.state = some cmd → new.filter isCmd = [] → SeqDid i s t

theorem Reaction.seqDid {i : Instr} {s t : State} {keys : List Emit} {st : SeqState} {kp : Bool}
    (h : Reaction s t keys st kp) (hedge : seqEdge s.seq.state st = true ∨ st = s.seq.state)
    (hkeys : keys.filter isCmd = []) : SeqDid i s t := by
  obtain ⟨⟨cmd, hcmd, rfl⟩, -⟩ := h
  exact .enters keys cmd hedge rfl hcmd hkeys

theorem PollDid.seqDid {i : Instr} {s t : State} (h : PollDid s t) : SeqDid i s t := by
  cases h with
  | nothing _ ht | noPending _ _ ht | emits _ _ _ _ _ _ ht => exact .same (congrArg (·.seq.state) ht)
  | reacts _ _ _ done _ _ _ hdone _ _ _ _ h =>
    obtain ⟨keys, st, kp, ⟨⟨cmd, hcmd, rfl⟩, -⟩, hf⟩ := complete_reaction h
    exact .enters (done :: keys) cmd (.inl hf.seqEdge) (by simp) hcmd (by simp [isCmd_of_isDone hdone, hf.filter_isCmd])

/-- What an instruction that answers a next state did to SEQ's state: the list of everything an instruction does, cut
down to SEQ. -/
theorem exec_seqDid {i : Instr} {s t : State} (h : exec i s = .next t) : SeqDid i s t := by
  cases exec_did h with
  | reset hi ht => exact .reset hi (congrArg (·.seq.state) ht)
  | tick _ ht | fall _ _ ht | rise _ ht | begins _ _ _ _ _ _ _ _ _ ht => exact .same (congrArg (·.seq.state) ht)
  | poll _ hp => exact hp.seqDid
  | reacts keys st kp _ _ _ _ hr hf =>
    rcases hf with hf | ⟨rfl, -, hedge, -⟩
    · exact hr.seqDid (.inl hf.seqEdge) hf.filter_isCmd
    · exact hr.seqDid hedge rfl

/-- Settles O45. -/
theorem sequencerFollowsTheStateGraph : Obligations.SequencerFollowsTheStateGraph := by
  unfold Obligations.SequencerFollowsTheStateGraph
  intro i s t h
  cases exec_seqDid h with
  | same hst => exact .inl hst
  | reset hi hst => exact .inr (.inr ⟨hi, hst⟩)
  | enters _ _ hedge _ _ _ => exact hedge.elim (fun he => .inr (.inl he)) .inl

/-- Settles O46. -/
theorem everyChangeOfStateEmitsItsCmd : Obligations.EveryChangeOfStateEmitsItsCmd := by
  unfold Obligations.EveryChangeOfStateEmitsItsCmd
  intro i s t h hi hne
  cases exec_seqDid h with
  | same hst => exact absurd hst hne
  | reset hreset _ => exact absurd hreset hi
  | enters new cmd _ hemits hcmd hnew => exact ⟨new, cmd, hemits, hcmd, hnew⟩

end Sys2Proof.Machine
end

section
/-! PROOFS. Whole exchanges of TOP (spec/30_encoding.md R91; spec/41_sequencer.md R141 to R150). A whole successful
transfer and its POLL leave TOP as SEQ's reaction to the transferred byte does (`runTrace_writeOk`, `runTrace_readOk`);
each exchange is a chain of those. -/

namespace Sys2Proof.Machine

/-! ### A whole transfer and its delivery -/

/-- In TOP the `Done` of a successful transfer that SEQ awaits runs the row of the byte. -/
theorem toSequencer_top_success {s : State} {kind : Dir} (hc : s.conf = .top) (hidle : s.eng.status = .idle)
    (hk : awaitedKind s.seq.state = some kind) (data : Byte) :
    toSequencer kind 0 data s =
      .next (s.reacted (rowEffect (successRow s.seq.state data) s.seq.kpPending)) := by
  have hs : s.seq.state ≠ .stopped := fun hs => by simp [hs, awaitedKind] at hk
  rw [toSequencer_top_eq_exec hc hk failBit_zero, decodeCW12_code, completionRow_success hs]
  exact successRow_reacts_of_state data rfl hs fun _ => hidle

theorem pulses_concat (ds : List Bool) (d : Bool) : pulses (ds ++ [d]) = (pulses ds ++ [.fall d]) ++ [.rise] := by
  induction ds with
  | nil => rfl
  | cons d' ds ih => simp [pulses, macroPulse, ih]

theorem isEdge_of_mem_pulses {ds : List Bool} : ∀ i ∈ pulses ds, isEdge i = true := by
  induction ds with
  | nil => nofun
  | cons d ds ih => simpa [pulses, macroPulse, isEdge] using ih

theorem ticksIn_pulses (ds : List Bool) : ticksIn (pulses ds) = 0 := by
  refine List.countP_eq_zero.2 fun i hi => ?_
  have hedge := isEdge_of_mem_pulses i hi
  intro htick
  rw [eq_of_beq htick] at hedge
  cases hedge

theorem interleaves_pulses (ds : List Bool) : Interleaves (pulses ds) (pulses ds) :=
  ⟨fun i hi => .inr (.inr (isEdge_of_mem_pulses i hi)), List.filter_eq_self.2 isEdge_of_mem_pulses⟩

/-- Eight pulses complete a transfer, and assemble what their falling edges do. -/
theorem runTrace_pulses {ds : List Bool} (hlen : ds.length = 8) {s : State} (hb : BitsLeft 8 s.eng)
    (hn : s.eng.idleTicks ≤ Config.timeoutTicks) :
    ∃ e, runTrace (pulses ds) s = .next (s.setEng e) ∧ e.status = .completedOk ∧ e.pending = s.eng.pending ∧
      e.buf = (engFalls ds s.eng).buf := by
  obtain rfl | ⟨init, d, rfl⟩ := ds.eq_nil_or_concat'
  · cases hlen
  have hint := interleaves_pulses (init ++ [d])
  have hticks := ticksIn_pulses (init ++ [d])
  rw [pulses_concat] at hticks
  nth_rw 1 [pulses_concat] at hint
  have hbody : ticksIn (pulses init ++ [.fall d]) = 0 := by simpa [ticksIn] using hticks
  have hrun := (hlen ▸ hint.clocks).completes (by rw [hint.levels_eq, hlen]) hb (by rwa [hbody])
  rw [pulses_concat]
  exact ⟨_, hrun, rfl, engFalls_pending .., by rw [hint.levels_eq]⟩

/-- The last tick period of a transfer delivers the completion. -/
theorem runTrace_TP_of_completed {s : State} (hs : s.eng.status = .completedOk) :
    runTrace macroTP s = exec .poll s := by
  obtain ⟨-, -, htick, -⟩ := eventsWithNoEffectAreIdentitySteps s
  rw [macroTP, runTrace_cons_of_next (htick (by simp [hs])), runTrace_singleton]

/-- The levels of eight pulses, bit 7 first. -/
def levelList (d : Nat → Bool) : List Bool := (List.range 8).map fun k => d (7 - k)

theorem eightPulses_eq_pulses (d : Nat → Bool) : eightPulses d = pulses (levelList d) := rfl

/-- `WRITE_OK` in TOP: the command is out, and SEQ goes on as its row says. -/
theorem runTrace_writeOk {s : State} {b : Byte} (hc : s.conf = .top) (he : s.eng = engArmedWrite b)
    (hk : awaitedKind s.seq.state = some .write) (level : Nat → Bool) :
    runTrace (macroWriteOk level) s =
      .next ((s.emit (.doneWrite 0)).reacted (rowEffect (successRow s.seq.state 0) s.seq.kpPending)) := by
  obtain ⟨e, hrun, hstatus, hpend, -⟩ :=
    runTrace_pulses (ds := levelList level) rfl (he ▸ bitsLeft_engArmedWrite b) (he ▸ Nat.zero_le _)
  have hpoll := exec_poll_write (s := s.setEng e) ((completed_iff _).2 (.inl hstatus)) (hpend.trans (he ▸ rfl))
  have hresult : resultCode e = 0 := if_pos hstatus
  rw [macroWriteOk, macroTxClk, eightPulses_eq_pulses, runTrace_append_of_next hrun, runTrace_TP_of_completed hstatus,
    hpoll, State.setEng_eng, hresult]
  exact (toSequencer_top_success (s := (s.setEng (engTaken e)).emit (.doneWrite 0)) hc rfl hk 0).trans
    (congrArg _ (State.reacted_setEng (s := s.emit (.doneWrite 0)) hc ..))

/-- The first tick period of a read re-arms it (R114). -/
theorem runTrace_TP_of_armedRead {s : State} (he : s.eng = engArmedRead) :
    runTrace macroTP s = .next (s.setEng engRearmedRead) := by
  have hn : s.eng.idleTicks + 1 ≤ Config.timeoutTicks := he ▸ one_le_timeoutTicks
  have hpoll : exec .poll (s.setEng engRearmedRead) = .next (s.setEng engRearmedRead) := execPoll_of_not_completed rfl
  rw [macroTP, runTrace_cons_of_next (exec_tick_counts (he ▸ rfl) hn), he]
  exact (runTrace_singleton _ _).trans hpoll

/-- `READ_OK v` in TOP: SEQ reacts to `v`. -/
theorem runTrace_readOk {s : State} (hc : s.conf = .top) (he : s.eng = engArmedRead)
    (hk : awaitedKind s.seq.state = some .read) (v : Byte) :
    runTrace (macroReadOk v) s =
      .next ((s.emit (.doneRead 0 v)).reacted (rowEffect (successRow s.seq.state v) s.seq.kpPending)) := by
  obtain ⟨e, hrun, hstatus, hpend, hbuf⟩ :=
    runTrace_pulses (ds := byteLevels v) rfl (s := s.setEng engRearmedRead) bitsLeft_engRearmedRead one_le_timeoutTicks
  obtain rfl : e.buf = v := hbuf.trans (engFalls_buf_of_byteLevels v)
  have hpoll := exec_poll_okRead (s := s.setEng e) hstatus hpend
  rw [macroReadOk, macroRxByte_eq_pulses, List.append_assoc, runTrace_append_of_next (runTrace_TP_of_armedRead he),
    runTrace_append_of_next hrun]
  refine (runTrace_TP_of_completed hstatus).trans (hpoll.trans ?_)
  exact (toSequencer_top_success (s := (s.setEng (engTaken e)).emit (.doneRead 0 e.buf)) hc rfl hk e.buf).trans
    (congrArg _ (State.reacted_setEng (s := s.emit (.doneRead 0 e.buf)) hc ..))

/-! ### The exchanges of the protocol -/

theorem enteringCmd_of_awaits_read {st : SeqState} (h : awaitedKind st = some .read) :
    enteringCmd st = some .cmdRead ∧ armedFor st = engArmedRead := by
  cases st <;> cases h <;> exact ⟨rfl, rfl⟩

/-- A command and its reply, from the armed command to the reaction to the reply. -/
theorem runTrace_exchange {s : State} {b : Byte} {reply : SeqState} (hc : s.conf = .top) (he : s.eng = engArmedWrite b)
    (hk : awaitedKind s.seq.state = some .write) (hreply : awaitedKind reply = some .read)
    (hrow : rowEffect (successRow s.seq.state 0) s.seq.kpPending = ⟨[], reply, s.seq.kpPending⟩)
    (level : Nat → Bool) (v : Byte) :
    runTrace (macroWriteOk level ++ macroReadOk v) s =
      .next (State.reacted { s with emits := s.emits ++ [.doneWrite 0, .cmdRead, .doneRead 0 v] }
        (rowEffect (successRow reply v) s.seq.kpPending)) := by
  obtain ⟨hcmd, harmed⟩ := enteringCmd_of_awaits_read hreply
  have hread := runTrace_readOk (s := (s.emit (.doneWrite 0)).reacted ⟨[], reply, s.seq.kpPending⟩) hc
    ((State.reacted_eng_of_top hc _).trans harmed) hreply v
  rw [runTrace_append_of_next (runTrace_writeOk hc he hk level), hrow, hread]
  simp [State.reacted, State.emit, SeqEffect.emits, hc, hcmd]

/-- Settles O54: START, then the exchange of the model query. -/
theorem startUpReachesTheTransitionRequest : Obligations.StartUpReachesTheTransitionRequest := by
  unfold Obligations.StartUpReachesTheTransitionRequest
  intro s level model hc hidle hs
  rw [runTrace_cons_of_next (exec_start_reacts hs fun _ => hidle),
    runTrace_exchange (s := s.reacted _) (reply := .awaitModelRead) hc (State.reacted_eng_of_top hc _) rfl rfl rfl]
  simp [State.reacted, SeqEffect.emits, hc, successRow, rowEffect, enteringCmd, armedFor]

/-- One exchange of a transition request. -/
theorem runTrace_transitionExchange {s : State} (hc : s.conf = .top) (he : s.eng = engArmedWrite 0x10)
    (hs : s.seq = { state := .awaitTransitionWrite, kpPending := false }) (level : Nat → Bool) (v : Byte) :
    runTrace (macroWriteOk level ++ macroReadOk v) s =
      .next (State.reacted { s with emits := s.emits ++ [.doneWrite 0, .cmdRead, .doneRead 0 v] }
        (rowEffect (successRow .awaitTransitionRead v) false)) := by
  have hexchange :=
    runTrace_exchange (reply := .awaitTransitionRead) hc he (by rw [hs]; rfl) rfl (by rw [hs]; rfl) level v
  rwa [hs] at hexchange

/-- Settles O55, by the row of the reply. -/
theorem transitionExchangeReturns : Obligations.TransitionExchangeReturns := by
  unfold Obligations.TransitionExchangeReturns
  intro s level v hc he hs hkeypad
  rw [runTrace_transitionExchange hc he hs]
  by_cases hnull : v = 0x7b
  · have hrow : successRow .awaitTransitionRead v = .tTransRNull := by rw [hnull]; rfl
    rw [hrow, if_pos hnull]
    simp [State.reacted, SeqEffect.emits, hc, rowEffect, enteringCmd, armedFor, he, hs]
  · rw [successRow_key (isSentinel_eq_false_iff.2 ⟨hnull, hkeypad⟩), if_neg hnull]
    simp [State.reacted, SeqEffect.emits, hc, rowEffect, enteringCmd, armedFor, he, hs]

/-- Settles O56: the transition exchange that ends in the sentinel, then the instant exchange. -/
theorem keypadExchangeRoutesOneByte : Obligations.KeypadExchangeRoutesOneByte := by
  unfold Obligations.KeypadExchangeRoutesOneByte
  intro s l₁ l₂ v hc he hs
  have instant {u : State} (hu : u.conf = .top) :=
    runTrace_exchange (s := u.reacted ⟨[], .awaitInstantWrite, true⟩) (b := 0x14) (reply := .awaitInstantRead) hu
      (State.reacted_eng_of_top hu _) rfl rfl rfl l₂ v
  rw [List.append_assoc, runTrace_append_of_next (u := State.reacted _ ⟨[], .awaitInstantWrite, true⟩)
    (runTrace_transitionExchange hc he hs l₁ 0x79), instant]
  · simp [State.reacted, SeqEffect.emits, hc, successRow, rowEffect, enteringCmd, armedFor, he, hs]
  · exact hc

end Sys2Proof.Machine
end

section
/-! PROOFS. The block's one exception, TransferTimeout (spec/60_exceptions.md R181, R194, R195;
spec/70_reset_and_hazards.md R231). A transfer fails in the tick past the window only (`engTick_newly_failed`). In TOP
the POLL of a failed transfer leaves SEQ restarted (`exec_poll_top_failedRead`, `exec_poll_top_failedWrite`), and the tick
periods of a silent peer come down to that POLL (`runTrace_tickPeriods_past_window`). -/

namespace Sys2Proof.Machine

/-! ### What fails a transfer (R181) -/

/-- A tick fails a transfer in progress only, and only with the counter past the window (R118, R123). -/
theorem engTick_newly_failed {n : Nat} {e : Eng} (h : e.status ≠ .completedFailed)
    (hf : (engTick n e).status = .completedFailed) : e.status = .inProgress ∧ n < (engTick n e).idleTicks := by
  by_cases hp : e.status = .inProgress
  · refine ⟨hp, ?_⟩
    by_cases hn : e.idleTicks + 1 ≤ n
    · simp [engTick_counts n e hp hn, hp] at hf
    · rw [engTick_idleTicks n e hp]
      omega
  · rw [engTick_outside n e hp] at hf
    exact absurd hf h

/-- Settles O10: nothing else an instruction does to ENG leaves it newly failed. -/
theorem onlyTickFailsATransfer : Obligations.OnlyTickFailsATransfer := by
  unfold Obligations.OnlyTickFailsATransfer
  intro i s t h hs ht
  cases exec_engDid h with
  | tick hi he =>
    rw [he] at ht ⊢
    exact ⟨hi, engTick_newly_failed hs ht⟩
  | same he => exact absurd (he ▸ ht) hs
  | fall d he => exact absurd (by rwa [he, engFall_status] at ht) hs
  | rise _ he =>
    rw [he] at ht
    rcases engRise_status s.eng with hr | ⟨-, hr⟩
    · exact absurd (hr ▸ ht) hs
    · simp [hr] at ht
  | reset _ he => simp [he, Eng.reset] at ht
  | taken _ _ he => simp [he] at ht
  | begins _ _ _ ha | restarts _ _ _ ha => simp [ha.status] at ht

/-! ### A failed transfer restarts the protocol (R194, R195) -/

/-- What SEQ does after a failed transfer: the flag is cleared and the model queried again (R151). -/
def restartEffect : SeqEffect := ⟨[], .awaitModelWrite, false⟩

section
variable {s : State} (hc : s.conf = .top)
include hc

/-- In TOP the `Done` of a failed transfer that SEQ awaits runs the restart, whatever its byte. -/
theorem toSequencer_top_failure {kind : Dir} (hidle : s.eng.status = .idle) (hk : awaitedKind s.seq.state = some kind)
    (data : Byte) : toSequencer kind failCode data s = .next (s.reacted restartEffect) := by
  have hs : s.seq.state ≠ .stopped := fun hs => by simp [hs, awaitedKind] at hk
  have hrow : completionRow (some s.seq.state) true data = .tFail s.seq.state data := by simp [completionRow, hs]
  rw [toSequencer_top_eq_exec hc hk failBit_failCode, decodeCW12_code, hrow]
  exact tFail_reacts data hs fun _ => hidle

/-- The POLL of a failed write that SEQ awaits. -/
theorem exec_poll_top_failedWrite (hs : s.eng.status = .completedFailed) (hp : s.eng.pending = .pendingWrite)
    (hk : awaitedKind s.seq.state = some .write) :
    exec .poll s = .next ((s.emit (.doneWrite failCode)).reacted restartEffect) := by
  have hresult : resultCode s.eng = failCode := if_neg (by simp [hs])
  rw [exec_poll_write ((completed_iff _).2 (.inr hs)) hp, hresult]
  exact (toSequencer_top_failure (s := (s.setEng (engTaken s.eng)).emit (.doneWrite failCode)) hc rfl hk 0).trans
    (congrArg _ (State.reacted_setEng (s := s.emit (.doneWrite failCode)) hc ..))

/-- The POLL of a failed read that SEQ awaits; its byte is the free one (R128). -/
theorem exec_poll_top_failedRead (hs : s.eng.status = .completedFailed) (hp : s.eng.pending = .pendingRead)
    (hk : awaitedKind s.seq.state = some .read) :
    exec .poll s =
      .next ((s.takeFree.emit (.doneRead failCode (Config.failedReadByte s.freeIdx))).reacted restartEffect) := by
  rw [exec_poll_failedRead hs hp]
  exact (toSequencer_top_failure (s := (s.setEng (engTaken s.eng)).takeFree.emit (.doneRead failCode _)) hc rfl hk
    _).trans (congrArg _ (State.reacted_setEng (s := s.takeFree.emit (.doneRead failCode _)) hc ..))

end

/-! ### A peer that never clocks (R231) -/

/-- A tick period inside the window only counts: its POLL has nothing to deliver (R127). -/
theorem runTrace_TP_inside_window {s : State} (hp : s.eng.status = .inProgress)
    (hn : s.eng.idleTicks + 1 ≤ Config.timeoutTicks) :
    ∃ e, runTrace macroTP s = .next (s.setEng e) ∧ e.status = .inProgress ∧ e.pending = s.eng.pending ∧
      e.idleTicks = s.eng.idleTicks + 1 := by
  have hstatus : (engTick Config.timeoutTicks s.eng).status = .inProgress := by rwa [engTick_counts _ _ hp hn]
  refine ⟨_, (runTrace_singleton .poll _).trans (execPoll_of_not_completed ?_), hstatus, engTick_pending _ _,
    engTick_idleTicks _ _ hp⟩
  simp [completed, hstatus]

/-- Tick periods that just exceed the window come down to the POLL that finds the transfer failed. -/
theorem runTrace_tickPeriods_past_window {k : Nat} {s : State} (hp : s.eng.status = .inProgress)
    (hn : s.eng.idleTicks + k = Config.timeoutTicks) :
    ∃ e, runTrace (tickPeriods (k + 1)) s = exec .poll (s.setEng e) ∧ e.status = .completedFailed ∧
      e.pending = s.eng.pending := by
  induction k generalizing s with
  | zero =>
    refine ⟨engTick Config.timeoutTicks s.eng, runTrace_singleton .poll _, ?_, engTick_pending _ _⟩
    rw [engTick_fails _ _ hp (by omega)]
  | succ k ih =>
    obtain ⟨e, hrun, hep, hpend, hticks⟩ := runTrace_TP_inside_window hp (by omega)
    obtain ⟨e', hrest, hfailed, hpend'⟩ := ih (s := s.setEng e) hep (by rw [State.setEng_eng]; omega)
    exact ⟨e', (runTrace_append_of_next hrun _).trans hrest, hfailed, hpend'.trans hpend⟩

/-- Settles O57: the periods end in the POLL of the failed transfer, which T3 says SEQ awaits. -/
theorem silentPeerMeansRestart : Obligations.SilentPeerMeansRestart := by
  unfold Obligations.SilentPeerMeansRestart
  intro s hinv hc hp h0
  obtain ⟨e, hrun, hfailed, hpend⟩ :=
    runTrace_tickPeriods_past_window (k := Config.timeoutTicks) hp (by rw [h0, Nat.zero_add])
  rcases (hinv.top hc).awaits_pending (by simp [hp]) with ⟨hw, hk⟩ | ⟨hr, hk⟩
  · refine ⟨_, hrun.trans (exec_poll_top_failedWrite (s := s.setEng e) hc hfailed (hpend.trans hw) hk),
      State.reacted_eng_of_top (s := (s.setEng e).emit _) hc _, rfl, .inl ⟨hw, ?_⟩⟩
    exact List.append_assoc s.emits [.doneWrite failCode] restartEffect.emits
  · refine ⟨_, hrun.trans (exec_poll_top_failedRead (s := s.setEng e) hc hfailed (hpend.trans hr) hk),
      State.reacted_eng_of_top (s := (s.setEng e).takeFree.emit _) hc _, rfl,
      .inr ⟨hr, Config.failedReadByte s.freeIdx, ?_⟩⟩
    exact List.append_assoc s.emits [.doneRead failCode _] restartEffect.emits

end Sys2Proof.Machine
end

section
/-! PROOFS. RESET (spec/70_reset_and_hazards.md R210): it writes the ENG and the SEQ of the state after reset (R38), in
every state. -/

namespace Sys2Proof.Machine

/-- RESET takes every field of the block from the state after reset; the precondition is empty. -/
theorem exec_reset (s : State) :
    exec .reset s = .next { s with eng := State.reset.eng, seq := State.reset.seq } := rfl

/-- Settles O1: what RESET writes is the state after reset, whose eleven values O2 lists. -/
theorem resetGivesEveryFieldItsResetValue : Obligations.ResetGivesEveryFieldItsResetValue := by
  unfold Obligations.ResetGivesEveryFieldItsResetValue
  obtain ⟨heng, hseq⟩ := stateAfterResetHasTheResetValues
  refine ⟨rfl, fun s => ?_⟩
  rw [← heng, ← hseq]
  exact exec_reset s

end Sys2Proof.Machine
end
